-- ==== Sys2Proof/Word.lean ====
section
/-! DEFINITION. The word types of the core: bytes, the 55-byte register value, the 32-byte digest, the 128-bit descriptor. -/

namespace Sys2Proof

/-- R11: a byte. A byte string is a `List Byte`, its first byte at the head. -/
abbrev Byte := BitVec 8

/-- R21, R22, R25: the 440 bits of `V` and `C`; the most significant eight are byte 0 of the 55-byte string. -/
abbrev SeedVal := BitVec 440

/-- R64, R39: the digest as the hash port's 256-bit bus carries it; byte 0 is bits 255 to 248. -/
abbrev Digest := BitVec 256

/-- R50: a command descriptor, one 128-bit beat `LEN2_LEN1_LEN0_CMD`. -/
abbrev Descriptor := BitVec 128

end Sys2Proof
end

