-- ==== Sys2Proof/Config.lean ====
section
/-! DEFINITION. The constants of the hardware (R6) and its two build parameters (R7, R8). The model has no free value:
no rule of the spec draws a value from outside the core's inputs (R19). -/

namespace Sys2Proof

/-- R6: bytes of security strength. Read by no rule; the spec records it because `MIN_ENTROPY` equals it. -/
def SECURITY_STRENGTH : Nat := 16

/-- R6: bytes of `V` and of `C`. -/
def SEEDLEN : Nat := 55

/-- R6: the least number of entropy bytes of INSTANTIATE and RESEED. -/
def MIN_ENTROPY : Nat := 16

/-- R6: the greatest number of output bytes of one GENERATE. -/
def MAX_REQUEST : Nat := 65536

/-- R6: bytes of a digest. -/
def DIGEST : Nat := 32

/-- R74: the greatest output length of Hash_df, where its one-byte counter reaches `0xFF`. -/
def HASH_DF_MAX : Nat := 8160

/-- R7, R8, R129: what is fixed when the core is built. It stands in State because `step` takes the state alone, and
nothing ever writes it. DESIGN CHOICE, safe: a statement over all states holds for every build (log entry 5). -/
structure Config where
  /-- R7: the largest `RC` with which GENERATE is still accepted, an unsigned 64-bit number. -/
  reseedInterval : BitVec 64
  /-- R8: the largest length of a byte-string input, an unsigned 32-bit number. -/
  maxInputBytes : BitVec 32
deriving DecidableEq, Repr

/-- R7, R8: the defaults, 2^48 and 2^32 - 1. -/
def Config.default : Config := ⟨0x1000000000000#64, 0xffffffff#32⟩

/-- R7, R8: the values a build may have: 1 to 2^64 - 1, and `MIN_ENTROPY` to 2^32 - 1. -/
abbrev Config.Legal (cfg : Config) : Prop :=
  1 ≤ cfg.reseedInterval.toNat ∧ MIN_ENTROPY ≤ cfg.maxInputBytes.toNat

end Sys2Proof
end

