-- ==== Sys2Proof/Syntax.lean ====
section
/-! DEFINITION. The three commands (R52, R53), one constructor per row of spec/opcode_table.json. -/

namespace Sys2Proof

/-- R53: a command with the counts its descriptor carries. The counts are numbers here and 32-bit fields in the
descriptor; `Instr.WellFormed` says when they fit. DESIGN CHOICE, safe (log entry 13). -/
inductive Instr where
  /-- R89: the lengths of entropy, nonce and personalization string. -/
  | instantiate (entLen nonceLen persLen : Nat)
  /-- R93: the lengths of entropy and additional input. -/
  | reseed (entLen addLen : Nat)
  /-- R97: the length of the additional input and the number of output bytes asked for. -/
  | generate (addLen n : Nat)
deriving DecidableEq, Repr

end Sys2Proof
end

