-- ==== Sys2Proof/WellFormed.lean ====
section
/-! DEFINITION. When a command can be written as a descriptor: every count fits its 32-bit field (R53, R9). -/

namespace Sys2Proof

/-- R53: an unsigned 32-bit count. -/
def fits32 (len : Nat) : Bool := decide (len < 2 ^ 32)

/-- R53: each count of the command fits the length field that carries it. -/
def Instr.wf : Instr → Bool
  | .instantiate entLen nonceLen persLen => fits32 entLen && fits32 nonceLen && fits32 persLen
  | .reseed entLen addLen => fits32 entLen && fits32 addLen
  | .generate addLen n => fits32 addLen && fits32 n

/-- The well-formed commands: those some descriptor stands for. -/
abbrev Instr.WellFormed (i : Instr) : Prop := i.wf = true

end Sys2Proof
end

