-- ==== Sys2Proof/Decode.lean ====
section
/-! DEFINITION. The decoder of R58, total on all 2^128 descriptors, and the encoder of R50 to R53. -/

namespace Sys2Proof

/-- R54, R59: why a descriptor is illegal. The core answers each with the one code IllegalCommand (R111); the reason
itself is not visible (log entry 15). -/
inductive Illegal where
  /-- R54: the reserved bits 31:4 of the command word are not all zero. -/
  | reservedBits
  /-- R52: `OP` is 0 or 4 to 15. -/
  | reservedOp
  /-- R54: `LEN2` is not zero on RESEED or GENERATE. -/
  | len2NotZero
deriving DecidableEq, Repr

/-- R58: `Command | Illegal`. -/
inductive Decoded where
  | command (i : Instr)
  | illegal (why : Illegal)
deriving DecidableEq, Repr

/-- R50: the command word W0. -/
def cmdField (d : Descriptor) : BitVec 32 := d.extractLsb' 0 32
/-- R50: the first length field W1. -/
def len0Field (d : Descriptor) : BitVec 32 := d.extractLsb' 32 32
/-- R50: the second length field W2. -/
def len1Field (d : Descriptor) : BitVec 32 := d.extractLsb' 64 32
/-- R50: the third length field W3. -/
def len2Field (d : Descriptor) : BitVec 32 := d.extractLsb' 96 32
/-- R51: bits 3:0 of the command word. -/
def opField (cmd : BitVec 32) : BitVec 4 := cmd.extractLsb' 0 4
/-- R51: bits 31:4 of the command word. -/
def rsvField (cmd : BitVec 32) : BitVec 28 := cmd.extractLsb' 4 28

/-- R52: the operation codes. -/
def opInstantiate : BitVec 4 := 1#4
def opReseed : BitVec 4 := 2#4
def opGenerate : BitVec 4 := 3#4

/-- R58: decode a descriptor. Legality depends on the descriptor alone (R54). -/
def decode (d : Descriptor) : Decoded :=
  let cmd := cmdField d
  let len0 := (len0Field d).toNat
  let len1 := (len1Field d).toNat
  let len2 := (len2Field d).toNat
  if rsvField cmd ≠ 0 then .illegal .reservedBits
  else if opField cmd = opInstantiate then .command (.instantiate len0 len1 len2)
  else if opField cmd = opReseed then
    if len2 ≠ 0 then .illegal .len2NotZero else .command (.reseed len0 len1)
  else if opField cmd = opGenerate then
    if len2 ≠ 0 then .illegal .len2NotZero else .command (.generate len0 len1)
  else .illegal .reservedOp

/-- R54: the descriptor is legal. -/
def legalDescriptor (d : Descriptor) : Bool :=
  decide (rsvField (cmdField d) = 0) &&
    (decide (opField (cmdField d) = opInstantiate) ||
      ((decide (opField (cmdField d) = opReseed) || decide (opField (cmdField d) = opGenerate)) &&
        decide (len2Field d = 0)))

/-- R50, R51: the descriptor `LEN2_LEN1_LEN0_CMD` with `RSV = 0`, laid out from the field positions. A count that does
not fit its field is cut to its low 32 bits: such a command is not well-formed. -/
def descriptorOf (op : BitVec 4) (len0 len1 len2 : Nat) : Descriptor :=
  BitVec.ofNat 32 len2 ++ BitVec.ofNat 32 len1 ++ BitVec.ofNat 32 len0 ++ (0#28 ++ op)

/-- R52, R53: the descriptor of a command. -/
def encode : Instr → Descriptor
  | .instantiate entLen nonceLen persLen => descriptorOf opInstantiate entLen nonceLen persLen
  | .reseed entLen addLen => descriptorOf opReseed entLen addLen 0
  | .generate addLen n => descriptorOf opGenerate addLen n 0

/-- The descriptor whose bits, numbered from bit 0 of the command word (R50), are the low `nbits` bits of `w`; every bit
above them is zero. A descriptor is one beat and is never split into bytes (R40). -/
def descriptorOfTable (nbits w : Nat) : Descriptor := BitVec.ofNat 128 (w % 2 ^ nbits)

/-- What the decoder reads from a row's word, numbered as spec/opcode_table.json numbers its bits. -/
def decodeTableWord (nbits w : Nat) : Option Instr :=
  match decode (descriptorOfTable nbits w) with
  | .command i => some i
  | .illegal _ => none

end Sys2Proof
end

