-- ==== Sys2Proof/Machine/State.lean ====
section
/-! DEFINITION. The state of the core (R20) with its running command's scratch (R28), the five data paths (R37), the
input lines, and the state after reset (R35). -/

namespace Sys2Proof.Machine

/-- No machine fault exists: every descriptor and every state has an outcome the spec gives (R58, R115), and a breach of
the host's contract is a wait, not an error (R116). -/
inductive Fault where
deriving DecidableEq, Repr

/-- Why the model declines. -/
inductive Refusal where
  /-- Raised by an arm of `exec` whose instruction has no meaning yet. Safe. No arm raises it. -/
  | notModelled (mnemonic : String)
  /-- R74: Hash_df was asked for more than 8160 bytes, where its one-byte counter would pass `0xFF`. Raised by `hashDf`
  alone; the sequencer only asks for 55 bytes, so no step answers it. Safe. -/
  | hashDfTooLong
deriving DecidableEq, Repr

/-- R107 to R111: the five errors. -/
inductive DrbgError where
  /-- R107: entropy shorter than 16 bytes on INSTANTIATE or RESEED. -/
  | insufficientEntropy
  /-- R108: GENERATE asked for more than 65536 bytes. -/
  | requestTooLarge
  /-- R109: GENERATE with the counter exhausted or in the uninstantiated state. -/
  | reseedRequired
  /-- R110: a byte-string input longer than `MAX_INPUT_BYTES`. -/
  | oversizedInput
  /-- R111: the descriptor is illegal. -/
  | illegalCommand
deriving DecidableEq, Repr

/-- R57: what a response says. The reserved codes `0x6` to `0xF` have no member: they are never produced (R59). -/
inductive Status where
  | ok
  | error (e : DrbgError)
deriving DecidableEq, Repr

/-- R27: the sequencer's control states, named. The values 10 to 15 are reserved and have no member. -/
inductive Fsm where
  | idle | check | absorb | deriveV | deriveC | genW | genOut | genH | commit | respond
deriving DecidableEq, Repr

/-- R69: a Hash_df call under way for 55 bytes: the message, the bytes derived so far, and the one-byte counter of the
next request. -/
structure DfRun where
  msg : List Byte
  out : List Byte
  counter : Byte
deriving DecidableEq, Repr

/-- R31, R32: the writes a command holds ready for its commit. -/
inductive Writes where
  /-- INSTANTIATE and RESEED: the new `V` and `C`; `RC` becomes 1 and `INST` 1. -/
  | seed (newV newC : SeedVal)
  /-- GENERATE: the new `V`; `RC` is incremented. -/
  | advance (newV : SeedVal)
deriving DecidableEq, Repr

/-- R27 with R28: the control state and the scratch it works on. Scratch exists only while a command runs: it is
undefined between commands and no rule reads what an earlier command left (log entry 9). -/
inductive Phase where
  /-- Waiting for a command. -/
  | idle
  /-- The accepted descriptor, being decoded and checked. -/
  | check (d : Descriptor)
  /-- The accepted command and the payload bytes taken so far. -/
  | absorb (i : Instr) (got : List Byte)
  /-- The first Hash_df of INSTANTIATE or RESEED. -/
  | deriveV (df : DfRun)
  /-- The new `V` and the second Hash_df. -/
  | deriveC (newV : SeedVal) (df : DfRun)
  /-- GENERATE's additional input and the number of output bytes asked for. -/
  | genW (add : List Byte) (n : Nat)
  /-- GENERATE's output loop: `Vw`, `temp`, the bytes of the current block not yet taken, the number of bytes still to
  be made. -/
  | genOut (vw temp : SeedVal) (pending : List Byte) (left : Nat)
  /-- GENERATE's final hash: `Vw`. -/
  | genH (vw : SeedVal)
  /-- The writes to be made. -/
  | commit (w : Writes)
  /-- The response now valid on the response channel. -/
  | respond (st : Status)
deriving DecidableEq, Repr

/-- R63, R34: the external engine's state as far as the contract speaks of it: the bytes it has been given since it was
last initialised. It is no part of the core's state; it is held here because the engine is an agent of its own. -/
structure HashEngine where
  absorbed : List Byte
deriving DecidableEq, Repr

/-- R66: freshly initialised. -/
def HashEngine.fresh : HashEngine := ⟨[]⟩

/-- The core (the first five fields, R20), its build parameters (R129), its data paths (R37), the lines that the host
and the engine drive, and the engine. -/
structure State where
  /-- R21: the working value. -/
  V : SeedVal
  /-- R22: the derived constant. -/
  C : SeedVal
  /-- R23: the reseed counter. -/
  RC : BitVec 64
  /-- R24: instantiated. -/
  INST : Bool
  /-- R27, R28: the control state with its scratch. -/
  phase : Phase
  /-- R7, R8, R129: the build parameters; never written. -/
  cfg : Config
  /-- R37, R131: descriptors the host presents, the next one first; held until accepted. -/
  cmdIn : List Descriptor
  /-- R37, R41: bytes the host offers, the next one first. -/
  dataIn : List Byte
  /-- R37, R42: bytes delivered to the host, the first one first. -/
  dataOut : List Byte
  /-- R37, R56: responses delivered to the host, the first one first. -/
  responses : List Status
  /-- R37, R48: messages of the hash requests the engine has answered, the first one first. -/
  hashPort : List (List Byte)
  /-- R63: the hash engine. -/
  engine : HashEngine
  /-- R124: the reset input, active high. -/
  rst : Bool
  /-- R37, R133: the host takes data-out bytes. -/
  outReady : Bool
  /-- R37, R56: the host takes a response. -/
  rspReady : Bool
  /-- R68: the engine answers hash requests. -/
  engineAnswers : Bool
deriving DecidableEq, Repr

/-- R35, R124: the core right after reset, built with the parameters `cfg`. The host offers nothing and is ready to take
output and responses, the engine answers: these are no state of the core, and the values are a DESIGN CHOICE, unsafe
(log entries 6, 8 and 12). -/
def State.powerOn (cfg : Config) : State where
  V := 0
  C := 0
  RC := 0
  INST := false
  phase := .idle
  cfg := cfg
  cmdIn := []
  dataIn := []
  dataOut := []
  responses := []
  hashPort := []
  engine := .fresh
  rst := false
  outReady := true
  rspReady := true
  engineAnswers := true

/-- R35 with the default parameters of R7 and R8. -/
def State.reset : State := State.powerOn Config.default

end Sys2Proof.Machine
end

