-- ==== Sys2Proof/Machine/Flags.lean ====
section
/-! DEFINITION. The comparators (R83, R86 to R88), the codes (R57, R27) and the status outputs (R29). -/

namespace Sys2Proof.Machine

/-- R86: the entropy comparator. -/
def insufficient (entLen : Nat) : Bool := decide (entLen < MIN_ENTROPY)

/-- R87: the request comparator. -/
def tooLarge (n : Nat) : Bool := decide (MAX_REQUEST < n)

/-- R88: the input-length comparator, applied to each byte-string length but never to the request. -/
def oversized (cfg : Config) (len : Nat) : Bool := decide (cfg.maxInputBytes.toNat < len)

/-- R83: the reseed comparator; `RC` and the interval compare as unsigned 64-bit numbers. -/
def reseedRequired (cfg : Config) (INST : Bool) (RC : BitVec 64) : Bool :=
  !INST || decide (cfg.reseedInterval.toNat < RC.toNat)

/-- R107 to R111: the code of an error. -/
def DrbgError.code : DrbgError → BitVec 4
  | .insufficientEntropy => 0x1
  | .requestTooLarge => 0x2
  | .reseedRequired => 0x3
  | .oversizedInput => 0x4
  | .illegalCommand => 0x5

/-- R57: the 4-bit code of a response. -/
def Status.code : Status → BitVec 4
  | .ok => 0x0
  | .error e => e.code

/-- R27: the control state of a phase. -/
def Phase.fsm : Phase → Fsm
  | .idle => .idle
  | .check _ => .check
  | .absorb _ _ => .absorb
  | .deriveV _ => .deriveV
  | .deriveC _ _ => .deriveC
  | .genW _ _ => .genW
  | .genOut _ _ _ _ => .genOut
  | .genH _ => .genH
  | .commit _ => .commit
  | .respond _ => .respond

/-- R27: the value of a control state. -/
def Fsm.code : Fsm → BitVec 4
  | .idle => 0
  | .check => 1
  | .absorb => 2
  | .deriveV => 3
  | .deriveC => 4
  | .genW => 5
  | .genOut => 6
  | .genH => 7
  | .commit => 8
  | .respond => 9

/-- R29: the status outputs. -/
structure StatusOutputs where
  busy : Bool
  instantiated : Bool
  reseedCounter : BitVec 64
deriving DecidableEq, Repr

/-- R29: what the host reads on the status outputs. -/
def State.status (s : State) : StatusOutputs where
  busy := decide (s.phase.fsm ≠ .idle)
  instantiated := s.INST
  reseedCounter := s.RC

/-- R45, R124: the command channel is ready only in IDLE and never while reset is asserted. -/
def State.cmdReady (s : State) : Bool := decide (s.phase.fsm = .idle) && !s.rst

/-- R37, R42: the byte now valid on data-out and not yet taken. -/
def State.dataOutValid (s : State) : Option Byte :=
  match s.phase with
  | .genOut _ _ (b :: _) _ => some b
  | _ => none

/-- R37, R56: the code now valid on the response channel and not yet taken. -/
def State.rspValid (s : State) : Option (BitVec 4) :=
  match s.phase with
  | .respond st => some st.code
  | _ => none

/-- R18: what an observer of the core can see: the response codes and output bytes delivered so far, in order, and the
status outputs. -/
structure Observation where
  codes : List (BitVec 4)
  output : List Byte
  status : StatusOutputs
deriving DecidableEq, Repr

/-- R18. -/
def State.observe (s : State) : Observation where
  codes := s.responses.map Status.code
  output := s.dataOut
  status := s.status

end Sys2Proof.Machine
end

