-- ==== Sys2Proof/Machine/Bytes.lean ====
section
/-! DEFINITION. Byte strings as big-endian numbers (R12, R13), the 440-bit adder (R78 to R80). -/

namespace Sys2Proof.Machine

/-- R12: `int(s)`, the byte string read as an unsigned big-endian number. -/
def beNat (s : List Byte) : Nat := s.foldl (fun acc b => acc * 256 + b.toNat) 0

/-- R12: `be_n(x)`, the `n`-byte string whose number is `x mod 256^n`. -/
def beBytes : Nat → Nat → List Byte
  | 0, _ => []
  | n + 1, x => BitVec.ofNat 8 (x / 256 ^ n) :: beBytes n x

/-- R21: the 55 bytes of a register value, the most significant first. -/
def seedBytes (v : SeedVal) : List Byte := beBytes SEEDLEN v.toNat

/-- R39: the 32 bytes of a digest; byte 0 is bits 255 to 248. -/
def digestBytes (d : Digest) : List Byte := beBytes DIGEST d.toNat

/-- R82: `be_8(RC)`, the counter as an addend. -/
def counterBytes (rc : BitVec 64) : List Byte := beBytes 8 rc.toNat

/-- R21: the register value whose 55 bytes are `s`. -/
def seedOfBytes (s : List Byte) : SeedVal := BitVec.ofNat 440 (beNat s)

/-- R78: byte strings of at most 55 bytes, added modulo 2^440; a shorter one is aligned to the low-order end. -/
def addMod (addends : List (List Byte)) : SeedVal :=
  BitVec.ofNat 440 (addends.map beNat).sum

/-- R80: the big-endian increment with wraparound. -/
def inc (v : SeedVal) : SeedVal := addMod [seedBytes v, [0x01]]

/-- R13: `zext_55B(s)`, zero bytes on the left up to 55. -/
def zext55 (s : List Byte) : List Byte := List.replicate (SEEDLEN - s.length) 0 ++ s

/-- R79: the sum of the addends' bytes at position `i`, without carry. -/
def columnSum (addends : List (List Byte)) (i : Nat) : Nat :=
  (addends.map fun a => ((zext55 a).getD i 0).toNat).sum

/-- R79: the carry chain over the columns from position `i` on (`k` of them): the carry out of position `i`, and the
result bytes. The last byte is added first. -/
def carryColumns (addends : List (List Byte)) : Nat → Nat → Nat × List Byte
  | 0, _ => (0, [])
  | k + 1, i =>
    let low := carryColumns addends k (i + 1)
    let s := low.1 + columnSum addends i
    (s / 256, BitVec.ofNat 8 (s % 256) :: low.2)

/-- R79: the 55-byte sum by the carry chain, the final carry discarded. -/
def carryChainSum (addends : List (List Byte)) : List Byte := (carryColumns addends SEEDLEN 0).2

end Sys2Proof.Machine
end

