-- ==== Sys2Proof/Machine/Sha256.lean ====
section
/-! DEFINITION. The function `SHA256` of R10: a total function from byte strings to 32-byte digests. The spec assumes it
"bit-exact FIPS 180-4 SHA-256", gives no internals, and lets a model implement it. The body below is PRESUMED from
FIPS 180-4 (log entry 3): unsafe if it were transcribed wrongly; the spec's known answers and derived vectors are tests. -/

namespace Sys2Proof.Machine

/-- PRESUMED: a word of the compression function. -/
abbrev ShaWord := BitVec 32

/-- PRESUMED: the eight working variables of the compression function, also its chaining value. -/
structure ShaVars where
  a : ShaWord
  b : ShaWord
  c : ShaWord
  d : ShaWord
  e : ShaWord
  f : ShaWord
  g : ShaWord
  h : ShaWord
deriving DecidableEq, Repr

/-- The eight big-endian words of a 256-bit row, the most significant first. -/
def shaRowWords (row : BitVec 256) : List ShaWord :=
  (List.range 8).map fun j => row.extractLsb' (224 - 32 * j) 32

/-- PRESUMED: the round constants, eight to a row. Constant `k` is the first 32 bits of the fraction of the cube root of the
`k`-th prime; the test test_sha_round_constants checks every one of them against that. -/
def shaRoundConstantRows : List (BitVec 256) :=
  [0x428a2f9871374491b5c0fbcfe9b5dba53956c25b59f111f1923f82a4ab1c5ed5,
   0xd807aa9812835b01243185be550c7dc372be5d7480deb1fe9bdc06a7c19bf174,
   0xe49b69c1efbe47860fc19dc6240ca1cc2de92c6f4a7484aa5cb0a9dc76f988da,
   0x983e5152a831c66db00327c8bf597fc7c6e00bf3d5a7914706ca635114292967,
   0x27b70a852e1b21384d2c6dfc53380d13650a7354766a0abb81c2c92e92722c85,
   0xa2bfe8a1a81a664bc24b8b70c76c51a3d192e819d6990624f40e3585106aa070,
   0x19a4c1161e376c082748774c34b0bcb5391c0cb34ed8aa4a5b9cca4f682e6ff3,
   0x748f82ee78a5636f84c878148cc7020890befffaa4506cebbef9a3f7c67178f2]

/-- PRESUMED: the round constants in order. -/
def shaRoundConstants : List ShaWord := shaRoundConstantRows.flatMap shaRowWords

/-- PRESUMED: the initial chaining value as one row. Word `k` is the first 32 bits of the fraction of the square root of the
`k`-th prime (test_sha_initial_value). -/
def shaInitialRow : BitVec 256 := 0x6a09e667bb67ae853c6ef372a54ff53a510e527f9b05688c1f83d9ab5be0cd19

/-- PRESUMED: the initial chaining value. -/
def shaInitial : ShaVars where
  a := shaInitialRow.extractLsb' 224 32
  b := shaInitialRow.extractLsb' 192 32
  c := shaInitialRow.extractLsb' 160 32
  d := shaInitialRow.extractLsb' 128 32
  e := shaInitialRow.extractLsb' 96 32
  f := shaInitialRow.extractLsb' 64 32
  g := shaInitialRow.extractLsb' 32 32
  h := shaInitialRow.extractLsb' 0 32

/-- PRESUMED: rotation to the right by `n` places. -/
def shaRotr (x : ShaWord) (n : Nat) : ShaWord := (x >>> n) ||| (x <<< (32 - n))

def shaCh (x y z : ShaWord) : ShaWord := (x &&& y) ^^^ (~~~x &&& z)
def shaMaj (x y z : ShaWord) : ShaWord := (x &&& y) ^^^ (x &&& z) ^^^ (y &&& z)
def shaBigSigma0 (x : ShaWord) : ShaWord := shaRotr x 2 ^^^ shaRotr x 13 ^^^ shaRotr x 22
def shaBigSigma1 (x : ShaWord) : ShaWord := shaRotr x 6 ^^^ shaRotr x 11 ^^^ shaRotr x 25
def shaSmallSigma0 (x : ShaWord) : ShaWord := shaRotr x 7 ^^^ shaRotr x 18 ^^^ (x >>> 3)
def shaSmallSigma1 (x : ShaWord) : ShaWord := shaRotr x 17 ^^^ shaRotr x 19 ^^^ (x >>> 10)

/-- PRESUMED: one round for each constant. `window` is the last sixteen words of the message schedule, the oldest first;
each round takes its head and appends the next word. -/
def shaRounds : List ShaWord → List ShaWord → ShaVars → ShaVars
  | [], _, v => v
  | k :: ks, window, v =>
    let w := window.headD 0
    let t1 := v.h + shaBigSigma1 v.e + shaCh v.e v.f v.g + k + w
    let t2 := shaBigSigma0 v.a + shaMaj v.a v.b v.c
    let next := shaSmallSigma1 (window.getD 14 0) + window.getD 9 0 + shaSmallSigma0 (window.getD 1 0) + w
    shaRounds ks (window.tail ++ [next]) ⟨t1 + t2, v.a, v.b, v.c, v.d + t1, v.e, v.f, v.g⟩

/-- PRESUMED: the compression of one sixteen-word block into the chaining value. -/
def shaCompress (v : ShaVars) (block : List ShaWord) : ShaVars :=
  let r := shaRounds shaRoundConstants block v
  ⟨v.a + r.a, v.b + r.b, v.c + r.c, v.d + r.d, v.e + r.e, v.f + r.f, v.g + r.g, v.h + r.h⟩

/-- PRESUMED: the padding: a one bit, zero bits up to 8 bytes short of a whole 64-byte block, and the length in bits as
an 8-byte big-endian number (modulo 2^64, log entry 4). -/
def shaPadding (len : Nat) : List Byte :=
  0x80 :: List.replicate ((119 - len % 64) % 64) 0 ++ beBytes 8 (8 * len)

/-- PRESUMED: the first `n` big-endian words of a byte string. -/
def shaWords : Nat → List Byte → List ShaWord
  | 0, _ => []
  | n + 1, s => BitVec.ofNat 32 (beNat (s.take 4)) :: shaWords n (s.drop 4)

/-- PRESUMED: compress `n` blocks of 64 bytes in order. -/
def shaBlocks : Nat → List Byte → ShaVars → ShaVars
  | 0, _, v => v
  | n + 1, s, v => shaBlocks n (s.drop 64) (shaCompress v (shaWords 16 s))

/-- PRESUMED: the digest, the eight words of the last chaining value. -/
def shaDigest (m : List Byte) : Digest :=
  let padded := m ++ shaPadding m.length
  let v := shaBlocks (padded.length / 64) padded shaInitial
  v.a ++ v.b ++ v.c ++ v.d ++ v.e ++ v.f ++ v.g ++ v.h

/-- R10, R64: the 32-byte digest of a byte string of any length. Both branches are the same: the match only makes the
digest of a message with unknown bytes stand still where Lean would otherwise unfold all its rounds. -/
@[irreducible] def SHA256 (m : List Byte) : Digest :=
  match beNat m with
  | 0 => shaDigest m
  | _ + 1 => shaDigest m

end Sys2Proof.Machine
end

