-- ==== Sys2Proof/Machine/HashEngine.lean ====
section
/-! DEFINITION. The call contract of the external hash engine (R63 to R67). -/

namespace Sys2Proof.Machine

/-- R63: `init()` resets the engine to its initial state. -/
def HashEngine.init (_ : HashEngine) : HashEngine := .fresh

/-- R63: `update(bytes)` gives the engine more bytes. -/
def HashEngine.update (e : HashEngine) (piece : List Byte) : HashEngine := ⟨e.absorbed ++ piece⟩

/-- R63, R66: `final()` gives the digest of the bytes absorbed and leaves the engine freshly initialised. -/
def HashEngine.final (e : HashEngine) : Digest × HashEngine := (SHA256 e.absorbed, .fresh)

/-- R63, R67: `truncatedFinal(n)`, for `n` up to 32, gives the first `n` bytes of the digest. The core of this model does not
use it (log entry 24); `truncatedFinal_eq_final_take` in Laws/Ops.lean says that it would get the same. -/
def HashEngine.truncatedFinal (e : HashEngine) (n : Nat) : List Byte × HashEngine :=
  ((digestBytes (SHA256 e.absorbed)).take n, .fresh)

/-- R64, R65: a hash request, `init(); update(p1); ...; update(pk); final()`. DESIGN CHOICE (log entry 24): R65 and R67 let a
request end with `final()` or with `truncatedFinal(k)`; here every request ends with `final()`, and who needs only the first
`k` bytes discards the rest. -/
def HashEngine.request (pieces : List (List Byte)) (e : HashEngine) : Digest × HashEngine :=
  (pieces.foldl HashEngine.update e.init).final

end Sys2Proof.Machine
end

