-- ==== Sys2Proof/Machine/HashDf.lean ====
section
/-! DEFINITION. The Hash_df pipeline as a function of its inputs (R69 to R75). -/

namespace Sys2Proof.Machine

/-- R69, R70, R71: the message hashed in one iteration: the one-byte counter, the length field `be_4(n * 8)`, and the
concatenated inputs. -/
def dfMessage (n : Nat) (counter : Byte) (M : List Byte) : List Byte :=
  counter :: (beBytes 4 (n * 8) ++ M)

/-- R69: the loop `while len(out) < n`, at most `fuel` times. The last digest keeps its first bytes (R73). -/
def dfLoop (n : Nat) (M : List Byte) : Nat → Byte → List Byte → List Byte
  | 0, _, out => out
  | fuel + 1, counter, out =>
    if out.length < n then
      let d := digestBytes (SHA256 (dfMessage n counter M))
      dfLoop n M fuel (counter + 1) (out ++ d.take (min (n - out.length) DIGEST))
    else out

/-- R69, R77: how often the loop runs for `n` bytes, one turn for each 32 bytes or part; 255 at the most (R74). -/
def dfTurns (n : Nat) : Nat := (n + (DIGEST - 1)) / DIGEST

/-- R69, R74: `Hash_df(s1, s2, s3, s4, n)`, defined for `n` up to 8160 and refused above. -/
def hashDf (s1 s2 s3 s4 : List Byte) (n : Nat) : Except Refusal (List Byte) :=
  if n ≤ HASH_DF_MAX then .ok (dfLoop n (s1 ++ s2 ++ s3 ++ s4) (dfTurns n) 0x01 [])
  else .error .hashDfTooLong

/-- R75: the call the sequencer makes, `Hash_df(M, "", "", "", 55)`, as a register value. -/
def hashDf55 (M : List Byte) : SeedVal := seedOfBytes (dfLoop SEEDLEN M (dfTurns SEEDLEN) 0x01 [])

end Sys2Proof.Machine
end

