-- ==== Sys2Proof/Machine/Operands.lean ====
section
/-! DEFINITION. The operands of a command: its payload (R55), the byte strings in it (R53), and the messages made of
them (R76). -/

namespace Sys2Proof.Machine

/-- R55: how many payload bytes an accepted command takes. The sum is exact and does not wrap. GENERATE's number of
output bytes is no payload (R53). -/
def payloadLen : Instr → Nat
  | .instantiate entLen nonceLen persLen => entLen + nonceLen + persLen
  | .reseed entLen addLen => entLen + addLen
  | .generate addLen _ => addLen

/-- R55: the `len` bytes of the payload that start at byte `start`. -/
def payloadField (payload : List Byte) (start len : Nat) : List Byte := (payload.drop start).take len

/-- R89: INSTANTIATE's seed material, `entropy || nonce || personalization`. -/
def instantiateSeed (entLen nonceLen persLen : Nat) (payload : List Byte) : List Byte :=
  let e := payloadField payload 0 entLen
  let no := payloadField payload entLen nonceLen
  let p := payloadField payload (entLen + nonceLen) persLen
  e ++ no ++ p

/-- R93: RESEED's seed material, `0x01 || V || entropy || additionalInput`. -/
def reseedSeed (V : SeedVal) (entLen addLen : Nat) (payload : List Byte) : List Byte :=
  let e := payloadField payload 0 entLen
  let a := payloadField payload entLen addLen
  0x01 :: (seedBytes V ++ e ++ a)

/-- R22, R76: the message from which `C` is derived, `0x00 || V`. -/
def constantSeed (newV : SeedVal) : List Byte := 0x00 :: seedBytes newV

/-- R99: the message of GENERATE's additional-input step, `0x02 || V || additionalInput`. -/
def additionalMessage (V : SeedVal) (add : List Byte) : List Byte := 0x02 :: (seedBytes V ++ add)

/-- R102: the message of GENERATE's final hash, `0x03 || Vw`. -/
def finalMessage (vw : SeedVal) : List Byte := 0x03 :: seedBytes vw

/-- R102: GENERATE's final sum, `Vw + H + C + RC` in one carry chain, `RC` as it stands. -/
def finalSum (vw : SeedVal) (hd : Digest) (C : SeedVal) (rc : BitVec 64) : SeedVal :=
  addMod [seedBytes vw, digestBytes hd, seedBytes C, counterBytes rc]

end Sys2Proof.Machine
end

