-- ==== Sys2Proof/Machine/Ops.lean ====
section
/-! DEFINITION. The shared operations over the state: stream transfers (R41, R42), hash requests (R64), the commit (R31),
the response (R56), rejection (R112), reset (R124). A wait the spec describes (R116) is the next state in which the
sequencer stands at the control state that waits. -/

namespace Sys2Proof.Machine

/-- R27: the sequencer goes to another control state. -/
def State.goto (s : State) (p : Phase) : State := { s with phase := p }

/-- R41: the bytes of data-in that `InBytes(n)` takes, and the state after it. The caller has seen that they are there. -/
def inBytes (n : Nat) (s : State) : List Byte × State :=
  (s.dataIn.take n, { s with dataIn := s.dataIn.drop n })

/-- R42: `OutBytes(bs)` to a host that takes every byte. -/
def outBytes (bs : List Byte) (s : State) : State := { s with dataOut := s.dataOut ++ bs }

/-- R64, R65: one hash request of message `m`, answered by the engine: the digest, and the state in which the port has
carried the message and the engine is as its contract leaves it. -/
def hashRequest (m : List Byte) (s : State) : Digest × State :=
  let r := s.engine.request [m]
  (r.1, { s with engine := r.2, hashPort := s.hashPort ++ [m] })

/-- R31, R32: the commit makes all of a command's writes together. -/
def commit (w : Writes) (s : State) : State :=
  match w with
  | .seed newV newC => { s with V := newV, C := newC, RC := 1, INST := true }
  | .advance newV => { s with V := newV, RC := s.RC + 1 }

/-- R56: `respond(code)`: the response is delivered and the core is in IDLE; while the host does not take it, the core
waits in RESPOND. -/
def respond (st : Status) (s : State) : State :=
  if s.rspReady then { s with responses := s.responses ++ [st], phase := .idle }
  else s.goto (.respond st)

/-- R112: `raise E`, the rejection of a command, the one way every error is reported (R106): nothing is written, no
payload is taken, no byte is delivered, no hash is requested; the response carries the code. The return is the
response's own way back to IDLE (R119). -/
def raise (e : DrbgError) (s : State) : State := respond (.error e) s

/-- R31, R46: commit, then the response `OK`. -/
def commitAndRespond (w : Writes) (s : State) : State := respond .ok (commit w s)

/-- R41, R132: the ABSORB step of command `i`, `got` being the payload bytes it already has: with enough bytes on data-in
the command goes on by `next` with its whole payload; with fewer it takes what is there and waits. -/
def absorb (i : Instr) (got : List Byte) (s : State) (next : List Byte → State → State) : State :=
  let need := payloadLen i - got.length
  if need ≤ s.dataIn.length then
    let r := inBytes need s
    next (got ++ r.1) r.2
  else { s with dataIn := [], phase := .absorb i (got ++ s.dataIn) }

/-- R124, R35: the reset edge. Every piece of the core's state takes its reset value, so nothing is valid on data-out or
on the response channel (R35). The build parameters stay (R129), as does everything that belongs to the host or to the
engine: what it offers, what it has taken, the lines it drives (log entries 8 and 12). -/
def State.applyReset (s : State) : State :=
  { s with V := 0, C := 0, RC := 0, INST := false, phase := .idle }

end Sys2Proof.Machine
end

