-- ==== Sys2Proof/Machine/Generate.lean ====
section
/-! DEFINITION. GENERATE (R97 to R105). The operations carry the command on from the control state they are named after
(R27). -/

namespace Sys2Proof.Machine

/-- R98, R114: CHECK of GENERATE: the reseed comparator, the request, the additional input, in this order. -/
def generateError (cfg : Config) (INST : Bool) (RC : BitVec 64) (addLen n : Nat) : Option DrbgError :=
  if reseedRequired cfg INST RC then some .reseedRequired
  else if tooLarge n then some .requestTooLarge
  else if oversized cfg addLen then some .oversizedInput
  else none

/-- R101: the number of hash requests of the output loop for `left` bytes, one for each 32 bytes or part. -/
def blockCount (left : Nat) : Nat := (left + (DIGEST - 1)) / DIGEST

/-- R101: one turn of the output loop: hash `temp`, keep the first `min left 32` bytes of the digest, increment.
The other bytes are discarded (log entry 24). -/
def outputBlock (temp : SeedVal) (left : Nat) (s : State) : List Byte × State :=
  let r := hashRequest (seedBytes temp) s
  ((digestBytes r.1).take (min left DIGEST), r.2)

/-- R101: the output loop for `left` bytes in `turns` turns, each block going to the host as it is made. -/
def outputLoop : Nat → SeedVal → Nat → State → State
  | 0, _, _, s => s
  | turns + 1, temp, left, s =>
    let r := outputBlock temp left s
    outputLoop turns (inc temp) (left - DIGEST) (outBytes r.1 r.2)

/-- R102: GEN_H, the final hash and sum, then the commit and the response. -/
def fromGenH (vw : SeedVal) (s : State) : State :=
  if !s.engineAnswers then s.goto (.genH vw)
  else
    let r := hashRequest (finalMessage vw) s
    commitAndRespond (.advance (finalSum vw r.1 r.2.C r.2.RC)) r.2

/-- R101, R133: GEN_OUT with `pending` bytes of the current block not yet taken and `left` bytes still to be made. It
waits for the host to take a byte, and for the engine to answer (R68). -/
def fromGenOut (vw temp : SeedVal) (pending : List Byte) (left : Nat) (s : State) : State :=
  if !pending.isEmpty && !s.outReady then s.goto (.genOut vw temp pending left)
  else
    let s1 := outBytes pending s
    if left = 0 then fromGenH vw s1
    else if !s1.engineAnswers then s1.goto (.genOut vw temp [] left)
    else if !s1.outReady then
      let r := outputBlock temp left s1
      r.2.goto (.genOut vw (inc temp) r.1 (left - DIGEST))
    else fromGenH vw (outputLoop (blockCount left) temp left s1)

/-- R99, R27: GEN_W, visited only with a non-empty additional input (R100): `Vw = V + SHA256(0x02 || V || a)`. -/
def fromGenW (add : List Byte) (n : Nat) (s : State) : State :=
  if !s.engineAnswers then s.goto (.genW add n)
  else
    let r := hashRequest (additionalMessage s.V add) s
    let vw := addMod [seedBytes s.V, digestBytes r.1]
    fromGenOut vw vw [] n r.2

/-- R97, R99, R100: what follows GENERATE's ABSORB. -/
def startGenerate (add : List Byte) (n : Nat) (s : State) : State :=
  if add.isEmpty then fromGenOut s.V s.V [] n s else fromGenW add n s

/-- R97: ABSORB of GENERATE and all that follows. -/
def absorbGenerate (addLen n : Nat) (got : List Byte) (s : State) : State :=
  absorb (.generate addLen n) got s fun payload s' => startGenerate (payloadField payload 0 addLen) n s'

/-- R97: GENERATE. -/
def execGenerate (addLen n : Nat) (s : State) : Host.Outcome State Fault Refusal :=
  match generateError s.cfg s.INST s.RC addLen n with
  | some e => .next (raise e s)
  | none => .next (absorbGenerate addLen n [] s)

end Sys2Proof.Machine
end

