-- ==== Sys2Proof/Machine/Derive.lean ====
section
/-! DEFINITION. DERIVE_V, DERIVE_C and COMMIT of INSTANTIATE and RESEED (R89, R93): two Hash_df calls through the hash
port, then the writes. Each operation here carries a command on from the control state it is named after. -/

namespace Sys2Proof.Machine

/-- R69: a Hash_df call at its start. -/
def DfRun.start (M : List Byte) : DfRun := ⟨M, [], 0x01⟩

/-- R69: bytes are still to be derived. -/
def DfRun.unfinished (df : DfRun) : Bool := decide (df.out.length < SEEDLEN)

/-- R69, R71: the message of the next hash request of the call. -/
def DfRun.message (df : DfRun) : List Byte := dfMessage SEEDLEN df.counter df.msg

/-- R69, R73: the call after a digest has come back; of the last one the bytes not needed are discarded (log entry 24). -/
def DfRun.take (df : DfRun) (d : Digest) : DfRun :=
  { df with
    out := df.out ++ (digestBytes d).take (min (SEEDLEN - df.out.length) DIGEST)
    counter := df.counter + 1 }

/-- R69: the register value a finished call has derived. -/
def DfRun.result (df : DfRun) : SeedVal := seedOfBytes df.out

/-- R69, R48: the rest of a call's loop, one hash request after another, at most `fuel` of them. -/
def dfRequests : Nat → DfRun → State → DfRun × State
  | 0, df, s => (df, s)
  | fuel + 1, df, s =>
    if df.unfinished then
      let r := hashRequest df.message s
      dfRequests fuel (df.take r.1) r.2
    else (df, s)

/-- R27: DERIVE_C of INSTANTIATE and RESEED, then the commit and the response. It waits while the engine does not answer
(R68). -/
def fromDeriveC (newV : SeedVal) (df : DfRun) (s : State) : State :=
  if df.unfinished && !s.engineAnswers then s.goto (.deriveC newV df)
  else
    let r := dfRequests (dfTurns SEEDLEN) df s
    commitAndRespond (.seed newV r.1.result) r.2

/-- R27: DERIVE_V of INSTANTIATE and RESEED, then DERIVE_C with the message `0x00 || V_new` (R22). -/
def fromDeriveV (df : DfRun) (s : State) : State :=
  if df.unfinished && !s.engineAnswers then s.goto (.deriveV df)
  else
    let r := dfRequests (dfTurns SEEDLEN) df s
    fromDeriveC r.1.result (DfRun.start (constantSeed r.1.result)) r.2

end Sys2Proof.Machine
end

