-- ==== Sys2Proof/Machine/Instantiate.lean ====
section
/-! DEFINITION. INSTANTIATE (R89 to R92). -/

namespace Sys2Proof.Machine

/-- R89, R114: CHECK of INSTANTIATE: the entropy length first, then the three input lengths in order. It reads the
descriptor's counts alone. -/
def instantiateError (cfg : Config) (entLen nonceLen persLen : Nat) : Option DrbgError :=
  if insufficient entLen then some .insufficientEntropy
  else if oversized cfg entLen then some .oversizedInput
  else if oversized cfg nonceLen then some .oversizedInput
  else if oversized cfg persLen then some .oversizedInput
  else none

/-- R89: ABSORB of INSTANTIATE and all that follows. -/
def absorbInstantiate (entLen nonceLen persLen : Nat) (got : List Byte) (s : State) : State :=
  absorb (.instantiate entLen nonceLen persLen) got s fun payload s' =>
    fromDeriveV (DfRun.start (instantiateSeed entLen nonceLen persLen payload)) s'

/-- R89: INSTANTIATE, accepted whatever `INST` and `RC` are (R91). -/
def execInstantiate (entLen nonceLen persLen : Nat) (s : State) : Host.Outcome State Fault Refusal :=
  match instantiateError s.cfg entLen nonceLen persLen with
  | some e => .next (raise e s)
  | none => .next (absorbInstantiate entLen nonceLen persLen [] s)

end Sys2Proof.Machine
end

