-- ==== Sys2Proof/Machine/Reseed.lean ====
section
/-! DEFINITION. RESEED (R93 to R96). -/

namespace Sys2Proof.Machine

/-- R93, R114: CHECK of RESEED: the entropy length first, then the two input lengths in order. -/
def reseedError (cfg : Config) (entLen addLen : Nat) : Option DrbgError :=
  if insufficient entLen then some .insufficientEntropy
  else if oversized cfg entLen then some .oversizedInput
  else if oversized cfg addLen then some .oversizedInput
  else none

/-- R93: ABSORB of RESEED and all that follows; the seed material holds `V` as it stands. -/
def absorbReseed (entLen addLen : Nat) (got : List Byte) (s : State) : State :=
  absorb (.reseed entLen addLen) got s fun payload s' =>
    fromDeriveV (DfRun.start (reseedSeed s'.V entLen addLen payload)) s'

/-- R93: RESEED, accepted in the uninstantiated state too (R95) and whatever `RC` is (R96). -/
def execReseed (entLen addLen : Nat) (s : State) : Host.Outcome State Fault Refusal :=
  match reseedError s.cfg entLen addLen with
  | some e => .next (raise e s)
  | none => .next (absorbReseed entLen addLen [] s)

end Sys2Proof.Machine
end

