-- ==== Sys2Proof/Machine/Dispatch.lean ====
section
/-! DEFINITION. One arm for each command of spec/opcode_table.json: the effect of an accepted, legal descriptor. -/

namespace Sys2Proof.Machine

def exec (i : Instr) (s : State) : Host.Outcome State Fault Refusal :=
  match i with
  | .instantiate entLen nonceLen persLen => Sys2Proof.Machine.execInstantiate entLen nonceLen persLen s
  | .reseed entLen addLen => Sys2Proof.Machine.execReseed entLen addLen s
  | .generate addLen n => Sys2Proof.Machine.execGenerate addLen n s

end Sys2Proof.Machine
end

