-- ==== Sys2Proof/Machine/Fetch.lean ====
section
/-! DEFINITION. Accepting a descriptor (R45, R46), decoding it (R58), and going on with a command that waited. -/

namespace Sys2Proof.Machine

/-- R46, R58: CHECK: decode the accepted descriptor and run the command; an illegal one is rejected before any other
check (R54, R111). -/
def runDescriptor (d : Descriptor) (s : State) : Host.Outcome State Fault Refusal :=
  match decode d with
  | .command i => exec i s
  | .illegal _ => .next (raise .illegalCommand s)

/-- R45: in IDLE the next descriptor is accepted and consumed (R49); with none presented the core waits (R127). -/
def acceptNext (s : State) : Host.Outcome State Fault Refusal :=
  match s.cmdIn with
  | [] => .next s
  | d :: rest => runDescriptor d { s with cmdIn := rest }

/-- R132: a command that waits in ABSORB goes on. -/
def resumeAbsorb (i : Instr) (got : List Byte) (s : State) : State :=
  match i with
  | .instantiate entLen nonceLen persLen => absorbInstantiate entLen nonceLen persLen got s
  | .reseed entLen addLen => absorbReseed entLen addLen got s
  | .generate addLen n => absorbGenerate addLen n got s

/-- R116: the sequencer goes on from the control state it stands in, as far as the host and the engine let it. -/
def proceed (s : State) : Host.Outcome State Fault Refusal :=
  match s.phase with
  | .idle => acceptNext s
  | .check d => runDescriptor d s
  | .absorb i got => .next (resumeAbsorb i got s)
  | .deriveV df => .next (fromDeriveV df s)
  | .deriveC newV df => .next (fromDeriveC newV df s)
  | .genW add n => .next (fromGenW add n s)
  | .genOut vw temp pending left => .next (fromGenOut vw temp pending left s)
  | .genH vw => .next (fromGenH vw s)
  | .commit w => .next (commitAndRespond w s)
  | .respond st => .next (respond st s)

/-- R124: while reset is asserted the core is reset and accepts nothing. -/
def stepOnce (s : State) : Host.Outcome State Fault Refusal :=
  if s.rst then .next s.applyReset else proceed s

/-- The host presents descriptor `d` as the next one and the sequencer is in IDLE with reset not asserted, so that the
very next step accepts it (log entry 2). -/
def presentNext (d : Descriptor) (s : State) : State :=
  { s with cmdIn := d :: s.cmdIn, phase := .idle, rst := false }

end Sys2Proof.Machine
end

