-- ==== Sys2Proof/Machine/Step.lean ====
section
/-! DEFINITION. One step of the machine: a command from acceptance to its response, or as far as its surroundings let it
go (R27: a model of whole commands; log entry 1). -/

namespace Sys2Proof.Machine

/-- R45, R46: one step. -/
def step (s : State) : Host.Outcome State Fault Refusal := stepOnce s

/-- The state in which the next step accepts the descriptor with the bits of `w` (log entry 2). -/
def State.withFetchWord (s : State) (nbits w : Nat) : State := presentNext (descriptorOfTable nbits w) s

end Sys2Proof.Machine
end

