-- ==== Sys2Proof/Machine/Sequencer.lean ====
section
/-! DEFINITION. The sequencer at the grain of its control states (R27): `tick` is one transition, one payload byte, one
output byte or one hash request. `step` is the same machine at the grain of commands; here it can be watched, and reset,
at every control state (R31, R46, R125, R134). -/

namespace Sys2Proof.Machine

/-- R46, R98: the CHECK of a command, from its counts and the state alone. -/
def precondition (i : Instr) (s : State) : Option DrbgError :=
  match i with
  | .instantiate entLen nonceLen persLen => instantiateError s.cfg entLen nonceLen persLen
  | .reseed entLen addLen => reseedError s.cfg entLen addLen
  | .generate addLen n => generateError s.cfg s.INST s.RC addLen n

/-- R27: the control state that follows ABSORB. -/
def afterAbsorb (i : Instr) (payload : List Byte) (s : State) : Phase :=
  match i with
  | .instantiate entLen nonceLen persLen => .deriveV (DfRun.start (instantiateSeed entLen nonceLen persLen payload))
  | .reseed entLen addLen => .deriveV (DfRun.start (reseedSeed s.V entLen addLen payload))
  | .generate addLen n =>
    let add := payloadField payload 0 addLen
    if add.isEmpty then .genOut s.V s.V [] n else .genW add n

/-- IDLE: accept a descriptor when one is presented (R45). -/
def tickIdle (s : State) : State :=
  match s.cmdIn with
  | [] => s
  | d :: rest => { s with cmdIn := rest, phase := .check d }

/-- CHECK: to RESPOND with the error, or to ABSORB (R27). -/
def tickCheck (d : Descriptor) (s : State) : State :=
  match decode d with
  | .illegal _ => s.goto (.respond (.error .illegalCommand))
  | .command i =>
    match precondition i s with
    | some e => s.goto (.respond (.error e))
    | none => s.goto (.absorb i [])

/-- ABSORB: take one byte, or wait for one; with the whole payload taken, go on (R41, R132). -/
def tickAbsorb (i : Instr) (got : List Byte) (s : State) : State :=
  if payloadLen i ≤ got.length then s.goto (afterAbsorb i got s)
  else if s.dataIn.isEmpty then s
  else
    let r := inBytes 1 s
    r.2.goto (.absorb i (got ++ r.1))

/-- DERIVE_V: one hash request, or wait for the engine; with 55 bytes derived, go on (R69). -/
def tickDeriveV (df : DfRun) (s : State) : State :=
  if df.unfinished then
    if s.engineAnswers then
      let r := hashRequest df.message s
      r.2.goto (.deriveV (df.take r.1))
    else s
  else s.goto (.deriveC df.result (DfRun.start (constantSeed df.result)))

/-- DERIVE_C: the same for `0x00 || V_new` (R22). -/
def tickDeriveC (newV : SeedVal) (df : DfRun) (s : State) : State :=
  if df.unfinished then
    if s.engineAnswers then
      let r := hashRequest df.message s
      r.2.goto (.deriveC newV (df.take r.1))
    else s
  else s.goto (.commit (.seed newV df.result))

/-- GEN_W: hash the additional input and add it to `V` (R99). -/
def tickGenW (add : List Byte) (n : Nat) (s : State) : State :=
  if s.engineAnswers then
    let r := hashRequest (additionalMessage s.V add) s
    let vw := addMod [seedBytes s.V, digestBytes r.1]
    r.2.goto (.genOut vw vw [] n)
  else s

/-- GEN_OUT: deliver a byte of the block, or wait for the host to take it; with none left of the block, hash the next
one, or go on when every byte is out (R101, R133). -/
def tickGenOut (vw temp : SeedVal) (pending : List Byte) (left : Nat) (s : State) : State :=
  match pending with
  | b :: rest => if s.outReady then (outBytes [b] s).goto (.genOut vw temp rest left) else s
  | [] =>
    if left = 0 then s.goto (.genH vw)
    else if s.engineAnswers then
      let r := outputBlock temp left s
      r.2.goto (.genOut vw (inc temp) r.1 (left - DIGEST))
    else s

/-- GEN_H: the final hash and sum (R102). -/
def tickGenH (vw : SeedVal) (s : State) : State :=
  if s.engineAnswers then
    let r := hashRequest (finalMessage vw) s
    r.2.goto (.commit (.advance (finalSum vw r.1 r.2.C r.2.RC)))
  else s

/-- COMMIT: the writes, all together (R31). -/
def tickCommit (w : Writes) (s : State) : State := (commit w s).goto (.respond .ok)

/-- R27: one transition of the sequencer, or the same state where it waits. -/
def tick (s : State) : State :=
  if s.rst then s.applyReset
  else
    match s.phase with
    | .idle => tickIdle s
    | .check d => tickCheck d s
    | .absorb i got => tickAbsorb i got s
    | .deriveV df => tickDeriveV df s
    | .deriveC newV df => tickDeriveC newV df s
    | .genW add n => tickGenW add n s
    | .genOut vw temp pending left => tickGenOut vw temp pending left s
    | .genH vw => tickGenH vw s
    | .commit w => tickCommit w s
    | .respond st => respond st s

/-- `k` transitions. -/
def ticks : Nat → State → State
  | 0, s => s
  | k + 1, s => ticks k (tick s)

end Sys2Proof.Machine
end

