-- ==== Sys2Proof/Machine/Environment.lean ====
section
/-! DEFINITION. What the outside world does to the core (R117): the host's events, and runs in which they fall between
any two transitions of the sequencer. -/

namespace Sys2Proof.Machine

/-- R117: an event of the host, or of the hash engine. -/
inductive HostEvent where
  /-- A descriptor is presented behind those already presented; it is held until accepted (R131). -/
  | present (d : Descriptor)
  /-- Bytes are offered on data-in behind those already offered. -/
  | offer (bytes : List Byte)
  /-- The bytes still on data-in are withdrawn (R113). -/
  | withdraw
  /-- The host starts or stops taking output bytes (R133). -/
  | outReady (level : Bool)
  /-- The host starts or stops taking responses (R56). -/
  | rspReady (level : Bool)
  /-- The engine starts or stops answering (R68). -/
  | engine (level : Bool)
  /-- The host drives the reset input (R124). -/
  | rst (level : Bool)
deriving DecidableEq, Repr

/-- R117: no event of the host touches `V`, `C`, `RC`, `INST`, the sequencer or the build parameters. -/
def HostEvent.apply (e : HostEvent) (s : State) : State :=
  match e with
  | .present d => { s with cmdIn := s.cmdIn ++ [d] }
  | .offer bytes => { s with dataIn := s.dataIn ++ bytes }
  | .withdraw => { s with dataIn := [] }
  | .outReady level => { s with outReady := level }
  | .rspReady level => { s with rspReady := level }
  | .engine level => { s with engineAnswers := level }
  | .rst level => { s with rst := level }

/-- R17: a run is a sequence of events of the two agents. -/
inductive Event where
  | core
  | host (e : HostEvent)
deriving DecidableEq, Repr

def Event.apply (e : Event) (s : State) : State :=
  match e with
  | .core => tick s
  | .host h => h.apply s

/-- A run from a state. -/
def runEvents (es : List Event) (s : State) : State := es.foldl (fun t e => e.apply t) s

/-- The state a step leads to. -/
def advance (s : State) : State :=
  match step s with
  | .next t => t
  | .fault _ => s
  | .refused _ => s

end Sys2Proof.Machine
end

