-- ==== Sys2Proof/Machine/Assembly.lean ====
section
/-! DEFINITION. The assembler's lines (R60), the pseudo-commands (R61), and the host that keeps its contract (R117). -/

namespace Sys2Proof.Machine

/-- R60: a line of assembly, its byte strings written out. -/
inductive AsmLine where
  | instantiate (entropy nonce pers : List Byte)
  | reseed (entropy add : List Byte)
  | generate (n : Nat) (add : List Byte)
deriving DecidableEq, Repr

/-- R60: the command a line stands for, its counts the lengths of the written strings. -/
def AsmLine.instr : AsmLine → Instr
  | .instantiate entropy nonce pers => .instantiate entropy.length nonce.length pers.length
  | .reseed entropy add => .reseed entropy.length add.length
  | .generate n add => .generate add.length n

/-- R60: the descriptor a line assembles to. -/
def AsmLine.descriptor (l : AsmLine) : Descriptor := encode l.instr

/-- R55, R60: the payload of a line. -/
def AsmLine.payload : AsmLine → List Byte
  | .instantiate entropy nonce pers => entropy ++ nonce ++ pers
  | .reseed entropy add => entropy ++ add
  | .generate _ add => add

/-- R117: what the host that keeps its contract does with a descriptor and its payload: it presents the descriptor, and
sends the payload once the command is accepted and waits for it. -/
def issueDescriptor (d : Descriptor) (payload : List Byte) (s : State) : State :=
  let s1 := advance ((HostEvent.present d).apply s)
  if s1.phase.fsm = .absorb then advance ((HostEvent.offer payload).apply s1) else s1

/-- R117: the host issues a line. -/
def issue (l : AsmLine) (s : State) : State := issueDescriptor l.descriptor l.payload s

/-- R61: `RESET`: the reset input is asserted over a clock edge and released. -/
def pseudoReset (s : State) : State :=
  (HostEvent.rst false).apply (advance ((HostEvent.rst true).apply s))

/-- R61, R130: `CONSTRUCT`: reset, then INSTANTIATE when there is entropy. -/
def construct (entropy nonce pers : List Byte) (s : State) : State :=
  let s0 := pseudoReset s
  if entropy.length > 0 then issue (.instantiate entropy nonce pers) s0 else s0

end Sys2Proof.Machine
end

