-- ==== Sys2Proof/Safety.lean ====
section
/-! DEFINITION. The states a run can be in, in the terms claims use. -/

namespace Sys2Proof

open Sys2Proof.Machine

/-- R69: the Hash_df call under way will derive what Hash_df gives for its message. -/
def DfSound (df : DfRun) : Prop :=
  df.out.length ≤ SEEDLEN ∧
    dfLoop SEEDLEN df.msg (dfTurns SEEDLEN) df.counter df.out = dfLoop SEEDLEN df.msg (dfTurns SEEDLEN) 0x01 []

/-- R83, R98: GENERATE has been let through: instantiated, and the counter within the interval. -/
abbrev GenerateAdmitted (s : State) : Prop :=
  s.INST = true ∧ s.RC.toNat ≤ s.cfg.reseedInterval.toNat

/-- What holds of the scratch of the running command, control state by control state (R27, R28, R46). -/
def PhaseSound (s : State) : Prop :=
  match s.phase with
  | .idle => True
  | .check _ => True
  | .absorb i got => precondition i s = none ∧ got.length ≤ payloadLen i
  | .deriveV df => DfSound df
  | .deriveC newV df => DfSound df ∧ df.msg = constantSeed newV
  | .genW add n => GenerateAdmitted s ∧ add ≠ [] ∧ n ≤ MAX_REQUEST
  | .genOut _ _ pending left => GenerateAdmitted s ∧ pending.length ≤ DIGEST ∧ pending.length + left ≤ MAX_REQUEST
  | .genH _ => GenerateAdmitted s
  | .commit (.seed newV newC) => newC = hashDf55 (constantSeed newV)
  | .commit (.advance _) => GenerateAdmitted s
  | .respond _ => True

/-- The invariant of the machine. -/
structure Inv (s : State) : Prop where
  /-- R26, R24, R35: while uninstantiated the registers hold their reset values. -/
  uninstantiated : s.INST = false → s.V = 0 ∧ s.C = 0 ∧ s.RC = 0
  /-- R26: once instantiated the counter is at least 1, but for the wrap that needs the greatest interval. -/
  counterPositive : s.INST = true → s.cfg.reseedInterval.toNat ≠ 2 ^ 64 - 1 → 1 ≤ s.RC.toNat
  /-- R83, R84: the counter never passes the interval by more than one. -/
  counterBound : s.RC.toNat ≤ s.cfg.reseedInterval.toNat + 1
  /-- R22: `C` is always what Hash_df gives for `0x00` and some value of `V`. -/
  constantDerived : s.INST = true → ∃ w : SeedVal, s.C = hashDf55 (constantSeed w)
  /-- R27, R28. -/
  phaseSound : PhaseSound s

/-- R17, R129: the states of the runs of a legally built core, the host and the engine doing what they may. -/
def Reachable (s : State) : Prop :=
  ∃ cfg : Config, cfg.Legal ∧ ∃ es : List Event, s = runEvents es (State.powerOn cfg)

/-- R75, R76: the two hash requests of a Hash_df call for 55 bytes, in counter order. -/
def hashDf55Requests (M : List Byte) : List (List Byte) := [dfMessage SEEDLEN 0x01 M, dfMessage SEEDLEN 0x02 M]

/-- R76: the four hash requests of INSTANTIATE and RESEED with seed material `M`. -/
def seedingRequests (M : List Byte) : List (List Byte) :=
  hashDf55Requests M ++ hashDf55Requests (constantSeed (hashDf55 M))

/-- R97, R99, R100: GENERATE's `Vw`. -/
def mixedV (V : SeedVal) (add : List Byte) : SeedVal :=
  if add = [] then V else addMod [seedBytes V, digestBytes (SHA256 (additionalMessage V add))]

/-- R101: `Inc^j(v)`. -/
def incTimes : Nat → SeedVal → SeedVal
  | 0, v => v
  | j + 1, v => inc (incTimes j v)

/-- R101: block `j` of GENERATE's output, all 32 bytes of it. -/
def outputBlockAt (vw : SeedVal) (j : Nat) : List Byte := digestBytes (SHA256 (seedBytes (incTimes j vw)))

/-- R101, R104: the `n` output bytes of a GENERATE whose `Vw` is `vw`: the blocks in order, the last one cut. -/
def generateOutput (vw : SeedVal) (n : Nat) : List Byte :=
  ((List.range ((n + 31) / 32)).flatMap (outputBlockAt vw)).take n

/-- R76: the hash requests of a GENERATE, in order: the additional input's if there is one, one for each block, the final
one. -/
def generateRequests (V : SeedVal) (add : List Byte) (n : Nat) : List (List Byte) :=
  (if add = [] then [] else [additionalMessage V add]) ++
    (List.range ((n + 31) / 32)).map (fun j => seedBytes (incTimes j (mixedV V add))) ++
    [finalMessage (mixedV V add)]

end Sys2Proof
end

