-- ==== Sys2Proof/Certificates/Slice0/Obligations.lean ====
section
/-! DEFINITION. The statements for the provers. Each docstring names the rule of spec/ it formalises. -/

open Sys2Proof Sys2Proof.Machine

/-! ### Terms of the statements -/

/-- R112 with R56: the state after a rejection whose response the host takes. -/
def Sys2Proof.rejected (e : DrbgError) (s : State) : State :=
  { s with responses := s.responses ++ [.error e], phase := .idle }

/-- R56, R57: between `s` and `t` one response was delivered, and its 4-bit code is `code`. -/
abbrev Sys2Proof.DeliversCode (code : BitVec 4) (s t : State) : Prop :=
  t.responses.map Status.code = s.responses.map Status.code ++ [code]

/-- R117: the host takes output bytes and responses, and the engine answers. -/
abbrev Sys2Proof.Attended (s : State) : Prop :=
  s.engineAnswers = true ∧ s.outReady = true ∧ s.rspReady = true

/-- R83, R87, R88: the preconditions of GENERATE with `addLen` bytes of additional input and `n` output bytes. -/
abbrev Sys2Proof.GenerateAccepted (s : State) (addLen n : Nat) : Prop :=
  GenerateAdmitted s ∧ n ≤ MAX_REQUEST ∧ addLen ≤ s.cfg.maxInputBytes.toNat

/-- R86, R88: the preconditions of INSTANTIATE. -/
abbrev Sys2Proof.InstantiateAccepted (s : State) (entLen nonceLen persLen : Nat) : Prop :=
  MIN_ENTROPY ≤ entLen ∧ entLen ≤ s.cfg.maxInputBytes.toNat ∧ nonceLen ≤ s.cfg.maxInputBytes.toNat ∧
    persLen ≤ s.cfg.maxInputBytes.toNat

/-- R86, R88: the preconditions of RESEED. -/
abbrev Sys2Proof.ReseedAccepted (s : State) (entLen addLen : Nat) : Prop :=
  MIN_ENTROPY ≤ entLen ∧ entLen ≤ s.cfg.maxInputBytes.toNat ∧ addLen ≤ s.cfg.maxInputBytes.toNat

/-- R89, R93: the state after INSTANTIATE or RESEED with seed material `M`, the payload taken and `rest` left. -/
def Sys2Proof.seeded (M rest : List Byte) (s : State) : State :=
  { s with
    V := hashDf55 M
    C := hashDf55 (0x00 :: seedBytes (hashDf55 M))
    RC := 1
    INST := true
    phase := .idle
    dataIn := rest
    responses := s.responses ++ [.ok]
    hashPort := s.hashPort ++ seedingRequests M
    engine := .fresh }

/-- R97: the state after GENERATE with additional input `add` and `n` output bytes, `rest` left on data-in. -/
def Sys2Proof.generated (add rest : List Byte) (n : Nat) (s : State) : State :=
  { s with
    V := addMod [seedBytes (mixedV s.V add), digestBytes (SHA256 (0x03 :: seedBytes (mixedV s.V add))),
      seedBytes s.C, beBytes 8 s.RC.toNat]
    RC := s.RC + 1
    phase := .idle
    dataIn := rest
    dataOut := s.dataOut ++ generateOutput (mixedV s.V add) n
    responses := s.responses ++ [.ok]
    hashPort := s.hashPort ++ generateRequests s.V add n
    engine := .fresh }

/-- R27, R68: where command `i`, its payload taken, stands at its first hash request: INSTANTIATE and RESEED in DERIVE_V,
GENERATE in GEN_W, GEN_OUT or GEN_H (with no byte to make, GEN_OUT goes on to GEN_H, which makes the first request). -/
def Sys2Proof.firstRequestPhase (i : Instr) (s : State) : Phase :=
  match i with
  | .generate 0 0 => .genH s.V
  | i => afterAbsorb i (s.dataIn.take (payloadLen i)) s

/-- R124, R130: the registers and the control state at their reset values, reset no longer asserted, and the responses
`sts` delivered. -/
def Sys2Proof.resetAnd (sts : List Status) (s : State) : State :=
  { s with
    V := 0
    C := 0
    RC := 0
    INST := false
    phase := .idle
    rst := false
    responses := s.responses ++ sts }

/-- R104, R116: the state with every line of the host and the engine at its ready level. -/
def Sys2Proof.attend (s : State) : State :=
  { s with engineAnswers := true, outReady := true, rspReady := true }

/-- R104: where the running command ends up once the host and the engine attend to it (the state itself, attended, when
no command runs). -/
def Sys2Proof.outcomeOf (s : State) : State :=
  if s.phase = .idle then attend s else advance (attend s)

/-! ### Encoding -/

/-- R50 to R53, R58: every command whose counts fit its fields is read back from its descriptor. -/
def Obligations.DecodeEncodeRoundTrip : Prop :=
  ∀ i : Instr, i.WellFormed → decode (encode i) = .command i

/-- R50 to R53, R58: a descriptor that decodes is the encoding of the command it decodes to. -/
def Obligations.EncodeDecodeRoundTrip : Prop :=
  ∀ (d : Descriptor) (i : Instr), decode d = .command i → i.WellFormed ∧ encode i = d

/-- R54: which descriptors are legal, from the descriptor alone; a legal one runs its command, any other is rejected with
IllegalCommand, code `0x5` (R111), whatever the state, before any other check. -/
def Obligations.IllegalDescriptorsRejected : Prop :=
  ∀ (s : State) (d : Descriptor) (rest : List Descriptor),
    s.phase = .idle → s.rst = false → s.rspReady = true → s.cmdIn = d :: rest →
      (d.extractLsb' 4 28 = 0 ∧ (d.extractLsb' 0 4 = 1 ∨ d.extractLsb' 0 4 = 2 ∨ d.extractLsb' 0 4 = 3) ∧
          (d.extractLsb' 0 4 = 2 ∨ d.extractLsb' 0 4 = 3 → d.extractLsb' 96 32 = 0) →
        ∃ i : Instr, decode d = .command i ∧ step s = exec i { s with cmdIn := rest }) ∧
      (¬ (d.extractLsb' 4 28 = 0 ∧ (d.extractLsb' 0 4 = 1 ∨ d.extractLsb' 0 4 = 2 ∨ d.extractLsb' 0 4 = 3) ∧
          (d.extractLsb' 0 4 = 2 ∨ d.extractLsb' 0 4 = 3 → d.extractLsb' 96 32 = 0)) →
        step s = .next (rejected .illegalCommand { s with cmdIn := rest }) ∧
          DeliversCode 0x5 s (rejected .illegalCommand { s with cmdIn := rest }))

/-- R62: the spec's encoding examples decode as it says. -/
def Obligations.DecodeExampleWords : Prop :=
  decode 0x00000000000000080000001000000001#128 = .command (.instantiate 16 8 0) ∧
  decode 0x00000000000000040000001000000002#128 = .command (.reseed 16 4) ∧
  decode 0x00000000000000200000000000000003#128 = .command (.generate 0 32) ∧
  decode 0x00000000000100010000000000000003#128 = .command (.generate 0 65537) ∧
  decode 0x00000000000000000000000000000004#128 = .illegal .reservedOp ∧
  decode 0x00000001000000000000001000000002#128 = .illegal .len2NotZero ∧
  payloadLen (.instantiate 16 8 0) = 24 ∧ payloadLen (.reseed 16 4) = 20 ∧ payloadLen (.generate 0 32) = 0

/-! ### A step -/

/-- R45, R46: in IDLE, reset not asserted, a step accepts the next descriptor and, when it decodes, is `exec` of the
command with the descriptor consumed. -/
def Obligations.StepRunsDecodedCommand : Prop :=
  ∀ (s : State) (d : Descriptor) (rest : List Descriptor) (i : Instr),
    s.phase = .idle → s.rst = false → s.cmdIn = d :: rest → decode d = .command i →
      step s = exec i { s with cmdIn := rest }

/-- R127: with no command presented the core waits in IDLE. -/
def Obligations.StepWaitsWithoutCommand : Prop :=
  ∀ s : State, s.phase = .idle → s.rst = false → s.cmdIn = [] → step s = .next s ∧ tick s = s

/-- R115, R58: no step has an error outcome of the machine; every state has a next one. That a run which R116 calls stuck
answers a next state too, the one in which the sequencer waits, is the model's reading of R116 (log entry 14, DEDUCED). -/
def Obligations.StepAlwaysAnswersNext : Prop :=
  ∀ s : State, ∃ t : State, step s = .next t

/-- R35: the value of every piece of state after reset, for every build. -/
def Obligations.ResetStateValues : Prop :=
  ∀ cfg : Config,
    seedBytes (State.powerOn cfg).V = List.replicate 55 0x00 ∧
    seedBytes (State.powerOn cfg).C = List.replicate 55 0x00 ∧
    (State.powerOn cfg).RC = 0 ∧ (State.powerOn cfg).INST = false ∧
    (State.powerOn cfg).phase.fsm = .idle ∧
    (State.powerOn cfg).status = ⟨false, false, 0⟩ ∧
    (State.powerOn cfg).dataOutValid = none ∧ (State.powerOn cfg).rspValid = none

/-- R124, R125: at the clock edge with reset asserted, whatever the sequencer is doing, the registers take their reset
values, the command under way is abandoned with no response and no commit, and nothing is accepted. The model's choices in
the equality, not the spec's: the lines and queues of the host stay (log entry 6), the records of what was delivered stay
(log entry 8), the engine stays as it is, which R126 leaves open (log entry 12), and the edge that first sees the asserted
line is the one that resets (log entry 16). -/
def Obligations.ResetEdgeAbandonsCommand : Prop :=
  ∀ s : State, s.rst = true →
    step s = .next { s with V := 0, C := 0, RC := 0, INST := false, phase := .idle } ∧
    tick s = { s with V := 0, C := 0, RC := 0, INST := false, phase := .idle }

/-! ### INSTANTIATE, RESEED, GENERATE: their results -/

/-- R89: INSTANTIATE, the payload on data-in and the engine and the host attending; the response is OK, code `0x0`
(R57). -/
def Obligations.InstantiateResult : Prop :=
  ∀ (s : State) (e no p rest : List Byte),
    InstantiateAccepted s e.length no.length p.length → s.dataIn = e ++ no ++ p ++ rest →
    s.engineAnswers = true → s.rspReady = true →
      exec (.instantiate e.length no.length p.length) s = .next (seeded (e ++ no ++ p) rest s) ∧
        DeliversCode 0x0 s (seeded (e ++ no ++ p) rest s)

/-- R93: RESEED; the response is OK, code `0x0` (R57). -/
def Obligations.ReseedResult : Prop :=
  ∀ (s : State) (e a rest : List Byte),
    ReseedAccepted s e.length a.length → s.dataIn = e ++ a ++ rest →
    s.engineAnswers = true → s.rspReady = true →
      exec (.reseed e.length a.length) s = .next (seeded (0x01 :: (seedBytes s.V ++ e ++ a)) rest s) ∧
        DeliversCode 0x0 s (seeded (0x01 :: (seedBytes s.V ++ e ++ a)) rest s)

/-- R97: GENERATE; the response is OK, code `0x0` (R57). -/
def Obligations.GenerateResult : Prop :=
  ∀ (s : State) (a rest : List Byte) (n : Nat),
    GenerateAccepted s a.length n → s.dataIn = a ++ rest → Attended s →
      exec (.generate a.length n) s = .next (generated a rest n s) ∧ DeliversCode 0x0 s (generated a rest n s)

/-- R91: INSTANTIATE is accepted whatever `INST` and `RC` are, the old registers leave no trace, and `RESEED_INTERVAL`
plays no part. -/
def Obligations.InstantiateForgetsOldState : Prop :=
  ∀ (s : State) (entLen nonceLen persLen : Nat) (V C : SeedVal) (RC ri : BitVec 64) (INST : Bool),
    InstantiateAccepted s entLen nonceLen persLen → entLen + nonceLen + persLen ≤ s.dataIn.length →
    s.engineAnswers = true → s.rspReady = true →
      ∃ t : State, exec (.instantiate entLen nonceLen persLen) s = .next t ∧
        exec (.instantiate entLen nonceLen persLen)
            { s with V := V, C := C, RC := RC, INST := INST, cfg := { s.cfg with reseedInterval := ri } } =
          .next { t with cfg := { t.cfg with reseedInterval := ri } }

/-- R92: empty optional inputs contribute nothing, and the split of one seed material between the fields does not change
the result. -/
def Obligations.InstantiateSplitInvariant : Prop :=
  ∀ (s : State) (e1 e2 rest : List Byte),
    InstantiateAccepted s (e1 ++ e2).length 0 0 → InstantiateAccepted s e1.length e2.length 0 →
    s.dataIn = e1 ++ e2 ++ rest → s.engineAnswers = true → s.rspReady = true →
      ∃ t : State, exec (.instantiate (e1 ++ e2).length 0 0) s = .next t ∧
        exec (.instantiate e1.length e2.length 0) s = .next t ∧
        (hashDf (e1 ++ e2) [] [] [] 55).toOption = some (seedBytes t.V)

/-- R95: RESEED is accepted in the uninstantiated state, reads the zero `V`, and sets `INST`. -/
def Obligations.ReseedFromUninstantiated : Prop :=
  ∀ (s : State) (e a rest : List Byte),
    s.INST = false → s.V = 0 → ReseedAccepted s e.length a.length → s.dataIn = e ++ a ++ rest →
    s.engineAnswers = true → s.rspReady = true →
      ∃ t : State, exec (.reseed e.length a.length) s = .next t ∧ t.INST = true ∧
        t.V = hashDf55 (0x01 :: (List.replicate 55 0x00 ++ e ++ a)) ∧ t.responses = s.responses ++ [.ok]

/-- R96, R93: RESEED reads neither `RC` nor the old `C`, is accepted whatever they are, and clears the ReseedRequired
condition by setting `RC = 1`. -/
def Obligations.ReseedIgnoresCounter : Prop :=
  ∀ (s : State) (entLen addLen : Nat),
    s.cfg.Legal → ReseedAccepted s entLen addLen → entLen + addLen ≤ s.dataIn.length →
    s.engineAnswers = true → s.rspReady = true →
      ∃ t : State, (∀ (rc : BitVec 64) (c : SeedVal), exec (.reseed entLen addLen) { s with RC := rc, C := c } = .next t) ∧
        t.responses = s.responses ++ [.ok] ∧ t.RC = 1 ∧ reseedRequired t.cfg t.INST t.RC = false

/-- R104, R105: an accepted GENERATE delivers exactly as many bytes as it is asked for and then OK; the output of a shorter
request is the beginning of that of a longer one, and both leave the same `V` and `RC`. -/
def Obligations.GenerateOutputPrefix : Prop :=
  ∀ (s : State) (addLen k m : Nat),
    k ≤ m → GenerateAccepted s addLen m → addLen ≤ s.dataIn.length → Attended s →
      ∃ (t u : State) (out : List Byte),
        exec (.generate addLen k) s = .next t ∧ exec (.generate addLen m) s = .next u ∧ out.length = m ∧
        t.dataOut = s.dataOut ++ out.take k ∧ u.dataOut = s.dataOut ++ out ∧
        t.responses = s.responses ++ [.ok] ∧ u.responses = s.responses ++ [.ok] ∧ t.V = u.V ∧ t.RC = u.RC

/-- R103: `n = 0` is a legal request. -/
def Obligations.GenerateZeroRequest : Prop :=
  ∀ (s : State) (a rest : List Byte), s.rspReady = true →
    (GenerateAccepted s a.length 0 → s.dataIn = a ++ rest → s.engineAnswers = true →
      ∃ t : State, exec (.generate a.length 0) s = .next t ∧
        t.dataOut = s.dataOut ∧ t.responses = s.responses ++ [.ok] ∧ t.RC = s.RC + 1 ∧
        t.hashPort = s.hashPort ++ (if a = [] then [] else [0x02 :: (seedBytes s.V ++ a)]) ++
          [0x03 :: seedBytes (mixedV s.V a)] ∧
        t.V = finalSum (mixedV s.V a) (SHA256 (0x03 :: seedBytes (mixedV s.V a))) s.C s.RC) ∧
    (s.INST = false ∨ s.cfg.reseedInterval.toNat < s.RC.toNat →
      exec (.generate a.length 0) s = .next (rejected .reseedRequired s))

/-- R77: the number of hash requests of each accepted command, at most 2050, and none for a rejected one. -/
def Obligations.HashRequestCounts : Prop :=
  ∀ s : State, Attended s →
    (∀ entLen nonceLen persLen : Nat, InstantiateAccepted s entLen nonceLen persLen →
      entLen + nonceLen + persLen ≤ s.dataIn.length →
      ∃ t : State, exec (.instantiate entLen nonceLen persLen) s = .next t ∧
        t.hashPort.length = s.hashPort.length + 4) ∧
    (∀ entLen addLen : Nat, ReseedAccepted s entLen addLen → entLen + addLen ≤ s.dataIn.length →
      ∃ t : State, exec (.reseed entLen addLen) s = .next t ∧ t.hashPort.length = s.hashPort.length + 4) ∧
    (∀ addLen n : Nat, GenerateAccepted s addLen n → addLen ≤ s.dataIn.length →
      ∃ t : State, exec (.generate addLen n) s = .next t ∧
        t.hashPort.length = s.hashPort.length + ((n + 31) / 32 + 1 + (if addLen = 0 then 0 else 1)) ∧
        t.hashPort.length ≤ s.hashPort.length + 2050) ∧
    (∀ (i : Instr) (e : DrbgError), precondition i s = some e →
      ∃ t : State, exec i s = .next t ∧ t.hashPort = s.hashPort)

/-! ### Errors -/

/-- R112: a rejected command, an illegal descriptor among them, changes nothing but the response channel, and then the
core is in IDLE; the response waits for the host to take it. -/
def Obligations.RejectionChangesNothing : Prop :=
  (∀ (i : Instr) (s : State) (e : DrbgError), precondition i s = some e →
    (s.rspReady = true → exec i s = .next { s with responses := s.responses ++ [.error e], phase := .idle }) ∧
    (s.rspReady = false → exec i s = .next { s with phase := .respond (.error e) })) ∧
  (∀ (s : State) (d : Descriptor) (rest : List Descriptor) (why : Illegal), s.phase = .idle → s.rst = false →
    s.cmdIn = d :: rest → decode d = .illegal why →
      (s.rspReady = true →
        step s = .next { s with
          cmdIn := rest
          responses := s.responses ++ [.error .illegalCommand]
          phase := .idle }) ∧
      (s.rspReady = false → step s = .next { s with cmdIn := rest, phase := .respond (.error .illegalCommand) }))

/-- R114: exactly one error is reported, the first in the order of the checks. -/
def Obligations.ErrorPriority : Prop :=
  ∀ s : State, s.rspReady = true →
    (∀ (d : Descriptor) (rest : List Descriptor) (why : Illegal), s.phase = .idle → s.rst = false →
      s.cmdIn = d :: rest → decode d = .illegal why →
        step s = .next (rejected .illegalCommand { s with cmdIn := rest })) ∧
    (∀ entLen nonceLen persLen : Nat,
      (entLen < 16 → exec (.instantiate entLen nonceLen persLen) s = .next (rejected .insufficientEntropy s)) ∧
      (16 ≤ entLen → s.cfg.maxInputBytes.toNat < entLen ∨ s.cfg.maxInputBytes.toNat < nonceLen ∨
          s.cfg.maxInputBytes.toNat < persLen →
        exec (.instantiate entLen nonceLen persLen) s = .next (rejected .oversizedInput s))) ∧
    (∀ entLen addLen : Nat,
      (entLen < 16 → exec (.reseed entLen addLen) s = .next (rejected .insufficientEntropy s)) ∧
      (16 ≤ entLen → s.cfg.maxInputBytes.toNat < entLen ∨ s.cfg.maxInputBytes.toNat < addLen →
        exec (.reseed entLen addLen) s = .next (rejected .oversizedInput s))) ∧
    (∀ addLen n : Nat,
      (s.INST = false ∨ s.cfg.reseedInterval.toNat < s.RC.toNat →
        exec (.generate addLen n) s = .next (rejected .reseedRequired s)) ∧
      (s.INST = true → s.RC.toNat ≤ s.cfg.reseedInterval.toNat → 65536 < n →
        exec (.generate addLen n) s = .next (rejected .requestTooLarge s)) ∧
      (s.INST = true → s.RC.toNat ≤ s.cfg.reseedInterval.toNat → n ≤ 65536 → s.cfg.maxInputBytes.toNat < addLen →
        exec (.generate addLen n) s = .next (rejected .oversizedInput s)))

/-- R107: InsufficientEntropy, exactly for INSTANTIATE and RESEED with fewer than 16 bytes of entropy. -/
def Obligations.InsufficientEntropyExactly : Prop :=
  ∀ (i : Instr) (s t : State), s.rspReady = true → exec i s = .next t →
    ((t.responses.map Status.code = s.responses.map Status.code ++ [0x1]) ↔
      (∃ entLen nonceLen persLen, i = .instantiate entLen nonceLen persLen ∧ entLen < 16) ∨
      (∃ entLen addLen, i = .reseed entLen addLen ∧ entLen < 16))

/-- R108: RequestTooLarge, exactly for GENERATE of more than 65536 bytes (the reseed check being passed, R114). -/
def Obligations.RequestTooLargeExactly : Prop :=
  ∀ (i : Instr) (s t : State), s.rspReady = true → exec i s = .next t →
    ((t.responses.map Status.code = s.responses.map Status.code ++ [0x2]) ↔
      ∃ addLen n, i = .generate addLen n ∧ 65536 < n ∧ s.INST = true ∧
        s.RC.toNat ≤ s.cfg.reseedInterval.toNat)

/-- R109: ReseedRequired, exactly for GENERATE with the counter exhausted or uninstantiated. -/
def Obligations.ReseedRequiredExactly : Prop :=
  ∀ (i : Instr) (s t : State), s.rspReady = true → exec i s = .next t →
    ((t.responses.map Status.code = s.responses.map Status.code ++ [0x3]) ↔
      ∃ addLen n, i = .generate addLen n ∧ (s.cfg.reseedInterval.toNat < s.RC.toNat ∨ s.INST = false))

/-- R110: OversizedInput, exactly for a byte-string length above `MAX_INPUT_BYTES` (the earlier checks being passed,
R114); never at the default, for the counts a descriptor can hold. -/
def Obligations.OversizedInputExactly : Prop :=
  ∀ (i : Instr) (s t : State), s.rspReady = true → exec i s = .next t →
    ((t.responses.map Status.code = s.responses.map Status.code ++ [0x4]) ↔
      (∃ entLen nonceLen persLen, i = .instantiate entLen nonceLen persLen ∧ 16 ≤ entLen ∧
        (s.cfg.maxInputBytes.toNat < entLen ∨ s.cfg.maxInputBytes.toNat < nonceLen ∨
          s.cfg.maxInputBytes.toNat < persLen)) ∨
      (∃ entLen addLen, i = .reseed entLen addLen ∧ 16 ≤ entLen ∧
        (s.cfg.maxInputBytes.toNat < entLen ∨ s.cfg.maxInputBytes.toNat < addLen)) ∨
      (∃ addLen n, i = .generate addLen n ∧ s.INST = true ∧ s.RC.toNat ≤ s.cfg.reseedInterval.toNat ∧
        n ≤ 65536 ∧ s.cfg.maxInputBytes.toNat < addLen)) ∧
    (i.WellFormed → s.cfg.maxInputBytes = 0xffffffff#32 →
      t.responses.map Status.code ≠ s.responses.map Status.code ++ [0x4])

/-! ### Waits -/

/-- R132: with fewer payload bytes than declared an accepted command takes those that are there and waits in ABSORB; a
step without more bytes changes nothing. -/
def Obligations.PayloadShortfallWaits : Prop :=
  ∀ (i : Instr) (s : State), precondition i s = none → s.dataIn.length < payloadLen i →
    ∃ t : State, exec i s = .next t ∧ t = { s with dataIn := [], phase := .absorb i s.dataIn } ∧
      (t.rst = false → step t = .next t ∧ tick t = t)

/-- R132: more bytes end the wait: the command then does what it would have done with all of them there from the
start. -/
def Obligations.ShortfallThenMoreBytes : Prop :=
  ∀ (i : Instr) (s : State) (first more : List Byte), precondition i s = none → s.rst = false →
    first.length < payloadLen i →
      ∃ t : State, exec i { s with dataIn := first } = .next t ∧
        step { t with dataIn := more } = exec i { s with dataIn := first ++ more }

/-- R133: a GENERATE whose host takes no output waits with its first byte valid: nothing is delivered, nothing is
committed, no response is given, and it goes on waiting. -/
def Obligations.OutputBackPressureWaits : Prop :=
  ∀ (s : State) (addLen n : Nat), GenerateAccepted s addLen n → 0 < n → addLen ≤ s.dataIn.length →
    s.engineAnswers = true → s.outReady = false →
      ∃ t : State, exec (.generate addLen n) s = .next t ∧
        t.V = s.V ∧ t.RC = s.RC ∧ t.C = s.C ∧ t.INST = s.INST ∧ t.dataOut = s.dataOut ∧
        t.responses = s.responses ∧
        t.dataOutValid = (digestBytes (SHA256 (seedBytes (mixedV s.V (s.dataIn.take addLen))))).head? ∧
        (t.rst = false → step t = .next t)

/-- R68: while the engine does not answer, an accepted command waits in the control state of its first hash request:
DERIVE_V for INSTANTIATE and RESEED; for GENERATE GEN_W with additional input, else GEN_OUT with a byte to make, else GEN_H.
Nothing is committed and no response is given. That the wait is a next state is log entry 14 (DEDUCED); that GEN_W is
visited with additional input only is log entry 10 (DESIGN CHOICE). -/
def Obligations.SilentEngineWaits : Prop :=
  ∀ (i : Instr) (s : State), precondition i s = none → payloadLen i ≤ s.dataIn.length → s.engineAnswers = false →
    ∃ t : State, exec i s = .next t ∧
      t = { s with phase := firstRequestPhase i s, dataIn := s.dataIn.drop (payloadLen i) } ∧
      (∀ entLen nonceLen persLen : Nat, i = .instantiate entLen nonceLen persLen → t.phase.fsm = .deriveV) ∧
      (∀ entLen addLen : Nat, i = .reseed entLen addLen → t.phase.fsm = .deriveV) ∧
      (∀ addLen n : Nat, i = .generate addLen n →
        t.phase.fsm = if 0 < addLen then .genW else if 0 < n then .genOut else .genH) ∧
      (t.rst = false → step t = .next t ∧ tick t = t)

/-- R56: a response the host does not take waits in RESPOND, after the commit; once it is taken the core is where it
would have been. -/
def Obligations.UntakenResponseWaits : Prop :=
  ∀ (i : Instr) (s t u : State),
    exec i { s with rspReady := false } = .next t → exec i { s with rspReady := true } = .next u →
    u.phase = .idle → s.rst = false →
      t.phase.fsm = .respond ∧ t.responses = s.responses ∧ t.V = u.V ∧ t.C = u.C ∧ t.RC = u.RC ∧ t.INST = u.INST ∧
        step t = .next t ∧ step { t with rspReady := true } = .next u

/-! ### Frames -/

/-- R32, R89, R93: what INSTANTIATE and RESEED leave alone, whichever way they end: the build parameters, the command
channel, data-out, the lines; payload only leaves data-in from its front; the registers are all as before, or all as the
commit writes them. -/
def Obligations.SeedingCommandsFrame : Prop :=
  ∀ (i : Instr) (s t : State),
    ((∃ entLen nonceLen persLen, i = .instantiate entLen nonceLen persLen) ∨ (∃ entLen addLen, i = .reseed entLen addLen)) →
    exec i s = .next t →
      t.cfg = s.cfg ∧ t.cmdIn = s.cmdIn ∧ t.dataOut = s.dataOut ∧ t.rst = s.rst ∧ t.outReady = s.outReady ∧
      t.rspReady = s.rspReady ∧ t.engineAnswers = s.engineAnswers ∧
      (t.dataIn = s.dataIn ∨ t.dataIn = s.dataIn.drop (payloadLen i)) ∧
      ((t.V = s.V ∧ t.C = s.C ∧ t.RC = s.RC ∧ t.INST = s.INST ∧ t.hashPort = s.hashPort ∧ t.engine = s.engine) ∨
        (t.C = hashDf55 (0x00 :: seedBytes t.V) ∧ t.RC = 1 ∧ t.INST = true ∧ t.engine = .fresh))

/-- R32, R97: what GENERATE leaves alone, whichever way it ends: `C`, `INST`, the build parameters, the command channel,
the lines; `V` and `RC` are as before, or `RC` is one more and `V` is the final sum of `Vw`, the old `C` and the old `RC`,
where `Vw` is the old `V` mixed with the additional input; what was delivered stays delivered. -/
def Obligations.GenerateFrame : Prop :=
  ∀ (addLen n : Nat) (s t : State), exec (.generate addLen n) s = .next t →
    t.C = s.C ∧ t.INST = s.INST ∧ t.cfg = s.cfg ∧ t.cmdIn = s.cmdIn ∧ t.rst = s.rst ∧ t.outReady = s.outReady ∧
    t.rspReady = s.rspReady ∧ t.engineAnswers = s.engineAnswers ∧
    (t.dataIn = s.dataIn ∨ t.dataIn = s.dataIn.drop addLen) ∧
    s.dataOut <+: t.dataOut ∧ s.hashPort <+: t.hashPort ∧
    ((t.V = s.V ∧ t.RC = s.RC) ∨
      (t.RC = s.RC + 1 ∧ t.engine = .fresh ∧
        t.V = finalSum (mixedV s.V (s.dataIn.take addLen))
          (SHA256 (0x03 :: seedBytes (mixedV s.V (s.dataIn.take addLen)))) s.C s.RC))

/-- R129: no command, no transition and no event of the host changes a build parameter. -/
def Obligations.BuildParametersFixed : Prop :=
  (∀ s t : State, step s = .next t → t.cfg = s.cfg) ∧ (∀ s : State, (tick s).cfg = s.cfg) ∧
    (∀ (e : HostEvent) (s : State), (e.apply s).cfg = s.cfg)

/-- R117, R33: no event of the host touches the registers, the sequencer or the status outputs. -/
def Obligations.HostEventsFrame : Prop :=
  ∀ (e : HostEvent) (s : State),
    (e.apply s).V = s.V ∧ (e.apply s).C = s.C ∧ (e.apply s).RC = s.RC ∧ (e.apply s).INST = s.INST ∧
    (e.apply s).phase = s.phase ∧ (e.apply s).status = s.status ∧ (e.apply s).dataOut = s.dataOut ∧
    (e.apply s).responses = s.responses ∧ (e.apply s).hashPort = s.hashPort ∧ (e.apply s).engine = s.engine

/-! ### The sequencer -/

/-- R31, R134: the registers, and with them the status outputs but `busy`, change in COMMIT alone (or at reset), all
together; in COMMIT they take the command's values and the next control state is RESPOND with OK. -/
def Obligations.CommitWritesTogether : Prop :=
  ∀ s : State, s.rst = false →
    (∀ newV newC : SeedVal, s.phase = .commit (.seed newV newC) →
      tick s = { s with V := newV, C := newC, RC := 1, INST := true, phase := .respond .ok }) ∧
    (∀ newV : SeedVal, s.phase = .commit (.advance newV) →
      tick s = { s with V := newV, RC := s.RC + 1, phase := .respond .ok }) ∧
    (s.phase.fsm ≠ .commit →
      (tick s).V = s.V ∧ (tick s).C = s.C ∧ (tick s).RC = s.RC ∧ (tick s).INST = s.INST)

/-- R84, R85: the writes of `RC`. -/
def Obligations.ReseedCounterWrites : Prop :=
  ∀ s : State,
    (s.rst = true → (tick s).RC = 0) ∧
    (s.rst = false → ∀ newV newC : SeedVal, s.phase = .commit (.seed newV newC) → (tick s).RC = 1) ∧
    (s.rst = false → ∀ newV : SeedVal, s.phase = .commit (.advance newV) →
      (tick s).RC.toNat = (s.RC.toNat + 1) % 2 ^ 64) ∧
    (s.rst = false → s.phase.fsm ≠ .commit → (tick s).RC = s.RC) ∧
    (∀ e : HostEvent, (e.apply s).RC = s.RC)

/-- R29: the status outputs are what the state says; they change only at reset and at a commit, and `busy` when a command
is accepted and when its response is taken; no event of the host touches them. -/
def Obligations.StatusOutputsFollowCommands : Prop :=
  ∀ s : State,
    s.status.busy = decide (s.phase.fsm ≠ .idle) ∧ s.status.instantiated = s.INST ∧ s.status.reseedCounter = s.RC ∧
    (s.rst = false → s.phase.fsm ≠ .commit →
      (tick s).status.instantiated = s.status.instantiated ∧ (tick s).status.reseedCounter = s.status.reseedCounter) ∧
    (s.rst = false →
      ((tick s).status.busy ≠ s.status.busy ↔
        s.phase.fsm = .idle ∧ s.cmdIn ≠ [] ∨ s.phase.fsm = .respond ∧ s.rspReady = true)) ∧
    (∀ e : HostEvent, (e.apply s).status = s.status)

/-- R24: nothing sets `INST` back to 0 except reset. -/
def Obligations.InstantiatedUntilReset : Prop :=
  ∀ s : State, s.INST = true → s.rst = false →
    (tick s).INST = true ∧ (∀ t : State, step s = .next t → t.INST = true) ∧
      (∀ e : HostEvent, (e.apply s).INST = true)

/-- R45, R131: a descriptor leaves the command channel only in IDLE with reset not asserted, one at a time, the next one
first; while the core is busy those presented are held. -/
def Obligations.AcceptanceOnlyInIdle : Prop :=
  ∀ s : State,
    (s.cmdReady = false → (tick s).cmdIn = s.cmdIn ∧ ∀ t : State, step s = .next t → t.cmdIn = s.cmdIn) ∧
    (s.cmdReady = true → (tick s).cmdIn = s.cmdIn.tail ∧ ∀ t : State, step s = .next t → t.cmdIn = s.cmdIn.tail)

/-- R56, R46: a step that accepts a command either ends in IDLE, having delivered exactly one response, or ends waiting,
having delivered none. -/
def Obligations.OneResponsePerCommand : Prop :=
  ∀ s t : State, s.cmdReady = true → s.cmdIn ≠ [] → step s = .next t →
    (t.phase = .idle ∧ ∃ st : Status, t.responses = s.responses ++ [st]) ∨
      (t.phase ≠ .idle ∧ t.responses = s.responses)

/-- R27: a transition goes to the same or a later control state of the table, but for RESPOND, which goes to IDLE; from
CHECK it goes to ABSORB or to RESPOND. -/
def Obligations.SequencerOrder : Prop :=
  ∀ s : State, s.rst = false →
    (s.phase.fsm = .respond ∧ (tick s).phase.fsm = .idle) ∨
      (s.phase.fsm.code.toNat ≤ (tick s).phase.fsm.code.toNat ∧
        (s.phase.fsm = .check → (tick s).phase.fsm = .absorb ∨ (tick s).phase.fsm = .respond) ∧
        (s.phase.fsm = .idle → (tick s).phase.fsm = .idle ∨ (tick s).phase.fsm = .check))

/-- R27, R46: the machine of whole commands is the sequencer: what a step answers is where its transitions lead. -/
def Obligations.StepIsRunOfTicks : Prop :=
  ∀ s t : State, step s = .next t → ∃ k : Nat, ticks k s = t

/-- R104, R133: what a running command comes to does not depend on how the host and the engine pace it: a transition,
made whatever their lines are, does not change where the command ends up once they attend to it. -/
def Obligations.OutcomeIndependentOfPacing : Prop :=
  ∀ s : State, s.rst = false → s.phase ≠ .idle → outcomeOf (tick s) = outcomeOf s

/-! ### Invariants -/

/-- R35: the invariant holds after reset, in every build. -/
def Obligations.ResetMeetsInvariant : Prop :=
  ∀ cfg : Config, Inv (State.powerOn cfg)

/-- R22, R25, R26, R28, R83: every step keeps the invariant. -/
def Obligations.StepKeepsInvariant : Prop :=
  ∀ s t : State, Inv s → step s = .next t → Inv t

/-- The same of every transition of the sequencer. -/
def Obligations.TickKeepsInvariant : Prop :=
  ∀ s : State, Inv s → Inv (tick s)

/-- The same of every event of the host. -/
def Obligations.HostEventsKeepInvariant : Prop :=
  ∀ (e : HostEvent) (s : State), Inv s → Inv (e.apply s)

/-- R26, R22: in every run of a legally built core the counter is 0 while uninstantiated, stays within one of the
interval, and is at least 1 once instantiated but for the one wrap; `C` is always derived from some `V`; and the next
state of a step is again one a run can reach. -/
def Obligations.ReachableStatesSound : Prop :=
  ∀ s : State, Reachable s → Inv s ∧ ∀ t : State, step s = .next t → Reachable t

/-- R126, R65: what the engine held before does not matter to anything but the engine. -/
def Obligations.EngineResidueIrrelevant : Prop :=
  ∀ (s t : State) (e : HashEngine), step s = .next t →
    ∃ e' : HashEngine, step { s with engine := e } = .next { t with engine := e' }

/-- R19: what was transferred earlier does not matter to what a step does. -/
def Obligations.EarlierTransfersIrrelevant : Prop :=
  ∀ (s t : State) (out : List Byte) (rsp : List Status) (req : List (List Byte)), step s = .next t →
    step { s with dataOut := out ++ s.dataOut, responses := rsp ++ s.responses, hashPort := req ++ s.hashPort } =
      .next { t with dataOut := out ++ t.dataOut, responses := rsp ++ t.responses, hashPort := req ++ t.hashPort }

/-! ### Arithmetic and Hash_df -/

/-- R78: the 440-bit sum of byte strings, the shorter ones aligned to the low-order end. -/
def Obligations.ModularSum : Prop :=
  (∀ addends : List (List Byte), (∀ a ∈ addends, a.length ≤ 55) →
    seedBytes (addMod addends) = beBytes 55 ((addends.map beNat).sum % 2 ^ 440) ∧
      addMod (addends.map zext55) = addMod addends) ∧
  addMod [List.replicate 55 0xff, List.replicate 31 0x00 ++ [0x01]] = 0

/-- R79: the carry chain gives the modular sum; with four addends at most the carry into a byte is at most 3; summing in
one chain and pairwise is the same. -/
def Obligations.CarryChainSum : Prop :=
  ∀ addends : List (List Byte), (∀ a ∈ addends, a.length ≤ 55) →
    carryChainSum addends = seedBytes (addMod addends) ∧
    (addends.length ≤ 4 → ∀ k i : Nat, (carryColumns addends k i).1 ≤ 3) ∧
    (∀ a b : List Byte, addMod (a :: b :: addends) = addMod (seedBytes (addMod [a, b]) :: addends))

/-- R80: the increment is the sum with one: it wraps. -/
def Obligations.IncrementWraps : Prop :=
  (∀ v : SeedVal, inc v = addMod [seedBytes v, [0x01]] ∧ (inc v).toNat = (v.toNat + 1) % 2 ^ 440) ∧
    seedBytes (inc (seedOfBytes (List.replicate 55 0xff))) = List.replicate 55 0x00 ∧
    seedBytes (inc (seedOfBytes (List.replicate 54 0x00 ++ [0xff]))) = List.replicate 53 0x00 ++ [0x01, 0x00]

/-- R82: the counter as an addend: eight bytes at the low-order end, the most significant at position 47, the least at
position 54. -/
def Obligations.CounterAddendPlace : Prop :=
  ∀ rc : BitVec 64,
    (zext55 (counterBytes rc)).length = 55 ∧ (zext55 (counterBytes rc)).take 47 = List.replicate 47 0x00 ∧
    ∀ j : Nat, j < 8 → (zext55 (counterBytes rc)).getD (47 + j) 0 = rc.extractLsb' (56 - 8 * j) 8

/-- R39: byte `k` of a digest is bits `255 - 8k` down to `248 - 8k` of the bus. -/
def Obligations.DigestByteOrder : Prop :=
  ∀ (d : Digest) (k : Nat), k < 32 → (digestBytes d).getD k 0 = d.extractLsb' (248 - 8 * k) 8

/-- R74: Hash_df gives exactly `n` bytes for `n` up to 8160 and is refused above. -/
def Obligations.HashDfLength : Prop :=
  ∀ (s1 s2 s3 s4 : List Byte) (n : Nat),
    (n ≤ 8160 → ∃ out : List Byte, hashDf s1 s2 s3 s4 n = .ok out ∧ out.length = n) ∧
    (8160 < n → hashDf s1 s2 s3 s4 n = .error .hashDfTooLong)

/-- R72: the segments carry no boundaries. -/
def Obligations.HashDfSegments : Prop :=
  ∀ (a b c d : List Byte) (n : Nat), hashDf a b c d n = hashDf (a ++ b ++ c ++ d) [] [] [] n

/-- R75: the form every call of the sequencer takes: two requests, in counter order. -/
def Obligations.HashDfSeedForm : Prop :=
  ∀ (M : List Byte) (s : State),
    (hashDf M [] [] [] 55).toOption =
      some (digestBytes (SHA256 ([0x01, 0x00, 0x00, 0x01, 0xb8] ++ M)) ++
        (digestBytes (SHA256 ([0x02, 0x00, 0x00, 0x01, 0xb8] ++ M))).take 23) ∧
    (hashDf M [] [] [] 55).toOption = some (seedBytes (hashDf55 M)) ∧
    (dfRequests (dfTurns SEEDLEN) (DfRun.start M) s).1.result = hashDf55 M ∧
    (dfRequests (dfTurns SEEDLEN) (DfRun.start M) s).2.hashPort =
      s.hashPort ++ [[0x01, 0x00, 0x00, 0x01, 0xb8] ++ M, [0x02, 0x00, 0x00, 0x01, 0xb8] ++ M]

/-- R64, R65, R66: the digest of a request does not depend on how its message is split, nor on what the engine held
before, and the engine is left freshly initialised. -/
def Obligations.HashRequestContract : Prop :=
  ∀ (pieces : List (List Byte)) (e : HashEngine),
    e.request pieces = (SHA256 pieces.flatten, HashEngine.fresh)

/-! ### The host -/

/-- R130, R61: `CONSTRUCT` is reset, followed by INSTANTIATE when there is entropy; with too little of it, or with an input
above `MAX_INPUT_BYTES`, the INSTANTIATE is rejected and the core stays in the reset state (R114 orders the two checks). The
model's choices in the equalities, not the spec's: the host's lines are as they were (log entry 6), the records of what was
delivered stay through the reset (log entry 8), the engine goes through it as it was (log entry 12), and one edge with the
line asserted is the reset (log entry 16). -/
def Obligations.ConstructResult : Prop :=
  ∀ (s : State) (e no p : List Byte),
    Attended s → s.cmdIn = [] → s.dataIn = [] →
      (e = [] → construct e no p s = resetAnd [] s) ∧
      (0 < e.length → e.length < 16 → no.length < 2 ^ 32 → p.length < 2 ^ 32 →
        construct e no p s = resetAnd [.error .insufficientEntropy] s) ∧
      (16 ≤ e.length → e.length < 2 ^ 32 → no.length < 2 ^ 32 → p.length < 2 ^ 32 →
        s.cfg.maxInputBytes.toNat < e.length ∨ s.cfg.maxInputBytes.toNat < no.length ∨
          s.cfg.maxInputBytes.toNat < p.length →
        construct e no p s = resetAnd [.error .oversizedInput] s) ∧
      (InstantiateAccepted s e.length no.length p.length → construct e no p s =
        seeded (e ++ no ++ p) [] { s with rst := false })
end

