-- ==== Sys2Proof/Laws/Bytes.lean ====
section
/-! SUPPORT. Byte strings and numbers: lengths, bounds, reading back what was written. -/

namespace Sys2Proof.Machine

@[simp] theorem beBytes_length (n x : Nat) : (beBytes n x).length = n := by
  induction n with
  | zero => rfl
  | succ n ih => simp [beBytes, ih]

@[simp] theorem seedBytes_length (v : SeedVal) : (seedBytes v).length = SEEDLEN := beBytes_length _ _

@[simp] theorem digestBytes_length (d : Digest) : (digestBytes d).length = DIGEST := beBytes_length _ _

@[simp] theorem counterBytes_length (rc : BitVec 64) : (counterBytes rc).length = 8 := beBytes_length _ _

@[simp] theorem beNat_nil : beNat [] = 0 := rfl

theorem beNat_foldl (s : List Byte) (acc : Nat) :
    s.foldl (fun a b => a * 256 + b.toNat) acc = acc * 256 ^ s.length + beNat s := by
  induction s generalizing acc with
  | nil => simp
  | cons b s ih =>
    have h : beNat (b :: s) = b.toNat * 256 ^ s.length + beNat s := by
      rw [beNat, List.foldl_cons, ih]; ring
    rw [List.foldl_cons, ih, h, List.length_cons, pow_succ]
    ring

theorem beNat_cons (b : Byte) (s : List Byte) : beNat (b :: s) = b.toNat * 256 ^ s.length + beNat s := by
  rw [beNat, List.foldl_cons, beNat_foldl]
  simp

theorem beNat_append (s t : List Byte) : beNat (s ++ t) = beNat s * 256 ^ t.length + beNat t := by
  rw [beNat, List.foldl_append, beNat_foldl]
  rfl

theorem beNat_lt (s : List Byte) : beNat s < 256 ^ s.length := by
  induction s with
  | nil => simp
  | cons b s ih =>
    rw [beNat_cons, List.length_cons, pow_succ]
    have hb : b.toNat + 1 ≤ 256 := b.isLt
    have := Nat.mul_le_mul_right (256 ^ s.length) hb
    linarith

@[simp] theorem beNat_replicate_zero (k : Nat) : beNat (List.replicate k 0#8) = 0 := by
  induction k with
  | zero => rfl
  | succ k ih => simp [List.replicate_succ, beNat_cons, ih]

/-- R12: the number of `be_n(x)` is `x mod 256^n`. -/
theorem beNat_beBytes (n x : Nat) : beNat (beBytes n x) = x % 256 ^ n := by
  induction n with
  | zero => simp [beBytes, Nat.mod_one]
  | succ n ih =>
    have h : x % 256 ^ (n + 1) = x % 256 ^ n + 256 ^ n * (x / 256 ^ n % 256) := by
      rw [pow_succ, Nat.mod_mul]
    rw [beBytes, beNat_cons, ih, beBytes_length, BitVec.toNat_ofNat, h]
    ring

theorem pow_seedlen : 256 ^ SEEDLEN = 2 ^ 440 := by
  rw [show (256 : Nat) = 2 ^ 8 from rfl, ← pow_mul]
  rfl

@[simp] theorem beNat_seedBytes (v : SeedVal) : beNat (seedBytes v) = v.toNat := by
  rw [seedBytes, beNat_beBytes]
  exact Nat.mod_eq_of_lt (lt_of_lt_of_eq v.isLt pow_seedlen.symm)

@[simp] theorem beNat_digestBytes (d : Digest) : beNat (digestBytes d) = d.toNat := by
  rw [digestBytes, beNat_beBytes]
  exact Nat.mod_eq_of_lt (lt_of_lt_of_le d.isLt (by norm_num [DIGEST]))

@[simp] theorem beNat_counterBytes (rc : BitVec 64) : beNat (counterBytes rc) = rc.toNat := by
  rw [counterBytes, beNat_beBytes]
  exact Nat.mod_eq_of_lt (lt_of_lt_of_le rc.isLt (by norm_num))

/-- R21: the 55 bytes of a register value are that value. -/
@[simp] theorem seedOfBytes_seedBytes (v : SeedVal) : seedOfBytes (seedBytes v) = v := by
  simp [seedOfBytes]

/-- R12: a byte string is recovered from its number. -/
theorem beBytes_beNat (s : List Byte) : beBytes s.length (beNat s) = s := by
  induction s with
  | nil => rfl
  | cons b s ih =>
    have hlt := beNat_lt s
    have hpos : 0 < 256 ^ s.length := by positivity
    have hhead : beNat (b :: s) / 256 ^ s.length = b.toNat := by
      rw [beNat_cons, Nat.add_comm, Nat.add_mul_div_right _ _ hpos, Nat.div_eq_of_lt hlt, Nat.zero_add]
    have htail : ∀ k x y, x % 256 ^ k = y % 256 ^ k → beBytes k x = beBytes k y := by
      intro k
      induction k with
      | zero => intros; rfl
      | succ k ihk =>
        intro x y h
        rw [beBytes, beBytes]
        have hk : x % 256 ^ k = y % 256 ^ k := by
          have := congrArg (· % 256 ^ k) h
          simpa [pow_succ, Nat.mod_mul_right_mod] using this
        have hd : x / 256 ^ k % 256 = y / 256 ^ k % 256 := by
          have := congrArg (· / 256 ^ k) h
          simpa [pow_succ, Nat.mod_mul_right_div_self] using this
        rw [ihk x y hk]
        congr 1
        apply BitVec.eq_of_toNat_eq
        simpa using hd
    rw [List.length_cons, beBytes, hhead]
    congr 1
    · simp
    · rw [htail s.length (beNat (b :: s)) (beNat s) (by rw [beNat_cons]; simp), ih]

/-- R21: a 55-byte string is recovered from the register value made of it. -/
theorem seedBytes_seedOfBytes (s : List Byte) (h : s.length = SEEDLEN) : seedBytes (seedOfBytes s) = s := by
  have hlt := beNat_lt s
  rw [h] at hlt
  have : (seedOfBytes s).toNat = beNat s := by
    rw [seedOfBytes, BitVec.toNat_ofNat]
    exact Nat.mod_eq_of_lt (lt_of_lt_of_eq hlt pow_seedlen)
  rw [seedBytes, this, ← h, beBytes_beNat]

/-- R78: the sum as a number. -/
theorem addMod_toNat (addends : List (List Byte)) :
    (addMod addends).toNat = (addends.map beNat).sum % 2 ^ 440 :=
  BitVec.toNat_ofNat _ _

end Sys2Proof.Machine
end

