-- ==== Sys2Proof/Laws/State.lean ====
section
/-! SUPPORT. What each shared update of the state does to each field. -/

namespace Sys2Proof.Machine

@[simp] theorem goto_V (p : Phase) (s : State) : (s.goto p).V = s.V := rfl
@[simp] theorem goto_C (p : Phase) (s : State) : (s.goto p).C = s.C := rfl
@[simp] theorem goto_RC (p : Phase) (s : State) : (s.goto p).RC = s.RC := rfl
@[simp] theorem goto_INST (p : Phase) (s : State) : (s.goto p).INST = s.INST := rfl
@[simp] theorem goto_phase (p : Phase) (s : State) : (s.goto p).phase = p := rfl
@[simp] theorem goto_cfg (p : Phase) (s : State) : (s.goto p).cfg = s.cfg := rfl
@[simp] theorem goto_cmdIn (p : Phase) (s : State) : (s.goto p).cmdIn = s.cmdIn := rfl
@[simp] theorem goto_dataIn (p : Phase) (s : State) : (s.goto p).dataIn = s.dataIn := rfl
@[simp] theorem goto_dataOut (p : Phase) (s : State) : (s.goto p).dataOut = s.dataOut := rfl
@[simp] theorem goto_responses (p : Phase) (s : State) : (s.goto p).responses = s.responses := rfl
@[simp] theorem goto_hashPort (p : Phase) (s : State) : (s.goto p).hashPort = s.hashPort := rfl
@[simp] theorem goto_engine (p : Phase) (s : State) : (s.goto p).engine = s.engine := rfl
@[simp] theorem goto_rst (p : Phase) (s : State) : (s.goto p).rst = s.rst := rfl
@[simp] theorem goto_outReady (p : Phase) (s : State) : (s.goto p).outReady = s.outReady := rfl
@[simp] theorem goto_rspReady (p : Phase) (s : State) : (s.goto p).rspReady = s.rspReady := rfl
@[simp] theorem goto_engineAnswers (p : Phase) (s : State) : (s.goto p).engineAnswers = s.engineAnswers := rfl

@[simp] theorem inBytes_V (n : Nat) (s : State) : (inBytes n s).2.V = s.V := rfl
@[simp] theorem inBytes_C (n : Nat) (s : State) : (inBytes n s).2.C = s.C := rfl
@[simp] theorem inBytes_RC (n : Nat) (s : State) : (inBytes n s).2.RC = s.RC := rfl
@[simp] theorem inBytes_INST (n : Nat) (s : State) : (inBytes n s).2.INST = s.INST := rfl
@[simp] theorem inBytes_phase (n : Nat) (s : State) : (inBytes n s).2.phase = s.phase := rfl
@[simp] theorem inBytes_cfg (n : Nat) (s : State) : (inBytes n s).2.cfg = s.cfg := rfl
@[simp] theorem inBytes_cmdIn (n : Nat) (s : State) : (inBytes n s).2.cmdIn = s.cmdIn := rfl
@[simp] theorem inBytes_dataIn (n : Nat) (s : State) : (inBytes n s).2.dataIn = s.dataIn.drop n := rfl
@[simp] theorem inBytes_dataOut (n : Nat) (s : State) : (inBytes n s).2.dataOut = s.dataOut := rfl
@[simp] theorem inBytes_responses (n : Nat) (s : State) : (inBytes n s).2.responses = s.responses := rfl
@[simp] theorem inBytes_hashPort (n : Nat) (s : State) : (inBytes n s).2.hashPort = s.hashPort := rfl
@[simp] theorem inBytes_engine (n : Nat) (s : State) : (inBytes n s).2.engine = s.engine := rfl
@[simp] theorem inBytes_rst (n : Nat) (s : State) : (inBytes n s).2.rst = s.rst := rfl
@[simp] theorem inBytes_outReady (n : Nat) (s : State) : (inBytes n s).2.outReady = s.outReady := rfl
@[simp] theorem inBytes_rspReady (n : Nat) (s : State) : (inBytes n s).2.rspReady = s.rspReady := rfl
@[simp] theorem inBytes_engineAnswers (n : Nat) (s : State) : (inBytes n s).2.engineAnswers = s.engineAnswers := rfl

@[simp] theorem outBytes_V (bs : List Byte) (s : State) : (outBytes bs s).V = s.V := rfl
@[simp] theorem outBytes_C (bs : List Byte) (s : State) : (outBytes bs s).C = s.C := rfl
@[simp] theorem outBytes_RC (bs : List Byte) (s : State) : (outBytes bs s).RC = s.RC := rfl
@[simp] theorem outBytes_INST (bs : List Byte) (s : State) : (outBytes bs s).INST = s.INST := rfl
@[simp] theorem outBytes_phase (bs : List Byte) (s : State) : (outBytes bs s).phase = s.phase := rfl
@[simp] theorem outBytes_cfg (bs : List Byte) (s : State) : (outBytes bs s).cfg = s.cfg := rfl
@[simp] theorem outBytes_cmdIn (bs : List Byte) (s : State) : (outBytes bs s).cmdIn = s.cmdIn := rfl
@[simp] theorem outBytes_dataIn (bs : List Byte) (s : State) : (outBytes bs s).dataIn = s.dataIn := rfl
@[simp] theorem outBytes_dataOut (bs : List Byte) (s : State) : (outBytes bs s).dataOut = s.dataOut ++ bs := rfl
@[simp] theorem outBytes_responses (bs : List Byte) (s : State) : (outBytes bs s).responses = s.responses := rfl
@[simp] theorem outBytes_hashPort (bs : List Byte) (s : State) : (outBytes bs s).hashPort = s.hashPort := rfl
@[simp] theorem outBytes_engine (bs : List Byte) (s : State) : (outBytes bs s).engine = s.engine := rfl
@[simp] theorem outBytes_rst (bs : List Byte) (s : State) : (outBytes bs s).rst = s.rst := rfl
@[simp] theorem outBytes_outReady (bs : List Byte) (s : State) : (outBytes bs s).outReady = s.outReady := rfl
@[simp] theorem outBytes_rspReady (bs : List Byte) (s : State) : (outBytes bs s).rspReady = s.rspReady := rfl
@[simp] theorem outBytes_engineAnswers (bs : List Byte) (s : State) : (outBytes bs s).engineAnswers = s.engineAnswers := rfl

@[simp] theorem hashRequest_V (m : List Byte) (s : State) : (hashRequest m s).2.V = s.V := rfl
@[simp] theorem hashRequest_C (m : List Byte) (s : State) : (hashRequest m s).2.C = s.C := rfl
@[simp] theorem hashRequest_RC (m : List Byte) (s : State) : (hashRequest m s).2.RC = s.RC := rfl
@[simp] theorem hashRequest_INST (m : List Byte) (s : State) : (hashRequest m s).2.INST = s.INST := rfl
@[simp] theorem hashRequest_phase (m : List Byte) (s : State) : (hashRequest m s).2.phase = s.phase := rfl
@[simp] theorem hashRequest_cfg (m : List Byte) (s : State) : (hashRequest m s).2.cfg = s.cfg := rfl
@[simp] theorem hashRequest_cmdIn (m : List Byte) (s : State) : (hashRequest m s).2.cmdIn = s.cmdIn := rfl
@[simp] theorem hashRequest_dataIn (m : List Byte) (s : State) : (hashRequest m s).2.dataIn = s.dataIn := rfl
@[simp] theorem hashRequest_dataOut (m : List Byte) (s : State) : (hashRequest m s).2.dataOut = s.dataOut := rfl
@[simp] theorem hashRequest_responses (m : List Byte) (s : State) : (hashRequest m s).2.responses = s.responses := rfl
@[simp] theorem hashRequest_hashPort (m : List Byte) (s : State) : (hashRequest m s).2.hashPort = s.hashPort ++ [m] := rfl
@[simp] theorem hashRequest_engine (m : List Byte) (s : State) : (hashRequest m s).2.engine = .fresh := rfl
@[simp] theorem hashRequest_rst (m : List Byte) (s : State) : (hashRequest m s).2.rst = s.rst := rfl
@[simp] theorem hashRequest_outReady (m : List Byte) (s : State) : (hashRequest m s).2.outReady = s.outReady := rfl
@[simp] theorem hashRequest_rspReady (m : List Byte) (s : State) : (hashRequest m s).2.rspReady = s.rspReady := rfl
@[simp] theorem hashRequest_engineAnswers (m : List Byte) (s : State) : (hashRequest m s).2.engineAnswers = s.engineAnswers := rfl

@[simp] theorem commit_seed_V (newV newC : SeedVal) (s : State) : (commit (.seed newV newC) s).V = newV := rfl
@[simp] theorem commit_seed_C (newV newC : SeedVal) (s : State) : (commit (.seed newV newC) s).C = newC := rfl
@[simp] theorem commit_seed_RC (newV newC : SeedVal) (s : State) : (commit (.seed newV newC) s).RC = 1 := rfl
@[simp] theorem commit_seed_INST (newV newC : SeedVal) (s : State) : (commit (.seed newV newC) s).INST = true := rfl
@[simp] theorem commit_seed_phase (newV newC : SeedVal) (s : State) : (commit (.seed newV newC) s).phase = s.phase := rfl
@[simp] theorem commit_seed_cfg (newV newC : SeedVal) (s : State) : (commit (.seed newV newC) s).cfg = s.cfg := rfl
@[simp] theorem commit_seed_cmdIn (newV newC : SeedVal) (s : State) : (commit (.seed newV newC) s).cmdIn = s.cmdIn := rfl
@[simp] theorem commit_seed_dataIn (newV newC : SeedVal) (s : State) : (commit (.seed newV newC) s).dataIn = s.dataIn := rfl
@[simp] theorem commit_seed_dataOut (newV newC : SeedVal) (s : State) : (commit (.seed newV newC) s).dataOut = s.dataOut := rfl
@[simp] theorem commit_seed_responses (newV newC : SeedVal) (s : State) : (commit (.seed newV newC) s).responses = s.responses := rfl
@[simp] theorem commit_seed_hashPort (newV newC : SeedVal) (s : State) : (commit (.seed newV newC) s).hashPort = s.hashPort := rfl
@[simp] theorem commit_seed_engine (newV newC : SeedVal) (s : State) : (commit (.seed newV newC) s).engine = s.engine := rfl
@[simp] theorem commit_seed_rst (newV newC : SeedVal) (s : State) : (commit (.seed newV newC) s).rst = s.rst := rfl
@[simp] theorem commit_seed_outReady (newV newC : SeedVal) (s : State) : (commit (.seed newV newC) s).outReady = s.outReady := rfl
@[simp] theorem commit_seed_rspReady (newV newC : SeedVal) (s : State) : (commit (.seed newV newC) s).rspReady = s.rspReady := rfl
@[simp] theorem commit_seed_engineAnswers (newV newC : SeedVal) (s : State) : (commit (.seed newV newC) s).engineAnswers = s.engineAnswers := rfl

@[simp] theorem commit_advance_V (newV : SeedVal) (s : State) : (commit (.advance newV) s).V = newV := rfl
@[simp] theorem commit_advance_C (newV : SeedVal) (s : State) : (commit (.advance newV) s).C = s.C := rfl
@[simp] theorem commit_advance_RC (newV : SeedVal) (s : State) : (commit (.advance newV) s).RC = s.RC + 1 := rfl
@[simp] theorem commit_advance_INST (newV : SeedVal) (s : State) : (commit (.advance newV) s).INST = s.INST := rfl
@[simp] theorem commit_advance_phase (newV : SeedVal) (s : State) : (commit (.advance newV) s).phase = s.phase := rfl
@[simp] theorem commit_advance_cfg (newV : SeedVal) (s : State) : (commit (.advance newV) s).cfg = s.cfg := rfl
@[simp] theorem commit_advance_cmdIn (newV : SeedVal) (s : State) : (commit (.advance newV) s).cmdIn = s.cmdIn := rfl
@[simp] theorem commit_advance_dataIn (newV : SeedVal) (s : State) : (commit (.advance newV) s).dataIn = s.dataIn := rfl
@[simp] theorem commit_advance_dataOut (newV : SeedVal) (s : State) : (commit (.advance newV) s).dataOut = s.dataOut := rfl
@[simp] theorem commit_advance_responses (newV : SeedVal) (s : State) : (commit (.advance newV) s).responses = s.responses := rfl
@[simp] theorem commit_advance_hashPort (newV : SeedVal) (s : State) : (commit (.advance newV) s).hashPort = s.hashPort := rfl
@[simp] theorem commit_advance_engine (newV : SeedVal) (s : State) : (commit (.advance newV) s).engine = s.engine := rfl
@[simp] theorem commit_advance_rst (newV : SeedVal) (s : State) : (commit (.advance newV) s).rst = s.rst := rfl
@[simp] theorem commit_advance_outReady (newV : SeedVal) (s : State) : (commit (.advance newV) s).outReady = s.outReady := rfl
@[simp] theorem commit_advance_rspReady (newV : SeedVal) (s : State) : (commit (.advance newV) s).rspReady = s.rspReady := rfl
@[simp] theorem commit_advance_engineAnswers (newV : SeedVal) (s : State) : (commit (.advance newV) s).engineAnswers = s.engineAnswers := rfl

@[simp] theorem applyReset_V (s : State) : s.applyReset.V = 0 := rfl
@[simp] theorem applyReset_C (s : State) : s.applyReset.C = 0 := rfl
@[simp] theorem applyReset_RC (s : State) : s.applyReset.RC = 0 := rfl
@[simp] theorem applyReset_INST (s : State) : s.applyReset.INST = false := rfl
@[simp] theorem applyReset_phase (s : State) : s.applyReset.phase = .idle := rfl
@[simp] theorem applyReset_cfg (s : State) : s.applyReset.cfg = s.cfg := rfl
@[simp] theorem applyReset_cmdIn (s : State) : s.applyReset.cmdIn = s.cmdIn := rfl
@[simp] theorem applyReset_dataIn (s : State) : s.applyReset.dataIn = s.dataIn := rfl
@[simp] theorem applyReset_dataOut (s : State) : s.applyReset.dataOut = s.dataOut := rfl
@[simp] theorem applyReset_responses (s : State) : s.applyReset.responses = s.responses := rfl
@[simp] theorem applyReset_hashPort (s : State) : s.applyReset.hashPort = s.hashPort := rfl
@[simp] theorem applyReset_engine (s : State) : s.applyReset.engine = s.engine := rfl
@[simp] theorem applyReset_rst (s : State) : s.applyReset.rst = s.rst := rfl
@[simp] theorem applyReset_outReady (s : State) : s.applyReset.outReady = s.outReady := rfl
@[simp] theorem applyReset_rspReady (s : State) : s.applyReset.rspReady = s.rspReady := rfl
@[simp] theorem applyReset_engineAnswers (s : State) : s.applyReset.engineAnswers = s.engineAnswers := rfl

@[simp] theorem respond_V (st : Status) (s : State) : (respond st s).V = s.V := by
  unfold respond; split <;> rfl
@[simp] theorem respond_C (st : Status) (s : State) : (respond st s).C = s.C := by
  unfold respond; split <;> rfl
@[simp] theorem respond_RC (st : Status) (s : State) : (respond st s).RC = s.RC := by
  unfold respond; split <;> rfl
@[simp] theorem respond_INST (st : Status) (s : State) : (respond st s).INST = s.INST := by
  unfold respond; split <;> rfl
@[simp] theorem respond_cfg (st : Status) (s : State) : (respond st s).cfg = s.cfg := by
  unfold respond; split <;> rfl
@[simp] theorem respond_cmdIn (st : Status) (s : State) : (respond st s).cmdIn = s.cmdIn := by
  unfold respond; split <;> rfl
@[simp] theorem respond_dataIn (st : Status) (s : State) : (respond st s).dataIn = s.dataIn := by
  unfold respond; split <;> rfl
@[simp] theorem respond_dataOut (st : Status) (s : State) : (respond st s).dataOut = s.dataOut := by
  unfold respond; split <;> rfl
@[simp] theorem respond_hashPort (st : Status) (s : State) : (respond st s).hashPort = s.hashPort := by
  unfold respond; split <;> rfl
@[simp] theorem respond_engine (st : Status) (s : State) : (respond st s).engine = s.engine := by
  unfold respond; split <;> rfl
@[simp] theorem respond_rst (st : Status) (s : State) : (respond st s).rst = s.rst := by
  unfold respond; split <;> rfl
@[simp] theorem respond_outReady (st : Status) (s : State) : (respond st s).outReady = s.outReady := by
  unfold respond; split <;> rfl
@[simp] theorem respond_rspReady (st : Status) (s : State) : (respond st s).rspReady = s.rspReady := by
  unfold respond; split <;> rfl
@[simp] theorem respond_engineAnswers (st : Status) (s : State) : (respond st s).engineAnswers = s.engineAnswers := by
  unfold respond; split <;> rfl

end Sys2Proof.Machine
end

