-- ==== Sys2Proof/Laws/Ops.lean ====
section
/-! SUPPORT. One lemma for each shared operation, saying all it can do. -/

namespace Sys2Proof.Machine

/-- R64: a hash request gives the digest of its message whatever the engine held before, and leaves the engine fresh. -/
theorem hashRequest_eq (m : List Byte) (s : State) :
    hashRequest m s = (SHA256 m, { s with engine := .fresh, hashPort := s.hashPort ++ [m] }) := by
  simp [hashRequest, HashEngine.request, HashEngine.init, HashEngine.update, HashEngine.final, HashEngine.fresh]

@[simp] theorem hashRequest_digest (m : List Byte) (s : State) : (hashRequest m s).1 = SHA256 m := by
  rw [hashRequest_eq]

/-- R67: ending a request with `truncatedFinal(n)` gives the first `n` bytes of what `final()` gives, and leaves the engine
the same. -/
theorem truncatedFinal_eq_final_take (e : HashEngine) (n : Nat) :
    e.truncatedFinal n = ((digestBytes e.final.1).take n, e.final.2) := rfl

/-- R56: a response the host takes. -/
theorem respond_taken (st : Status) (s : State) (h : s.rspReady = true) :
    respond st s = { s with responses := s.responses ++ [st], phase := .idle } := by
  simp [respond, h]

/-- R56: a response the host does not take. -/
theorem respond_waits (st : Status) (s : State) (h : s.rspReady = false) :
    respond st s = { s with phase := .respond st } := by
  simp [respond, h, State.goto]

/-- R56: a response is delivered and the core idle, or the core waits with it; nothing else changes. -/
theorem respond_cases (st : Status) (s : State) :
    (s.rspReady = true ∧ respond st s = { s with responses := s.responses ++ [st], phase := .idle }) ∨
      (s.rspReady = false ∧ respond st s = { s with phase := .respond st }) := by
  by_cases h : s.rspReady = true
  · exact .inl ⟨h, respond_taken st s h⟩
  · exact .inr ⟨by simpa using h, respond_waits st s (by simpa using h)⟩

/-- R41: ABSORB with the payload there. -/
theorem absorb_enough (i : Instr) (got : List Byte) (s : State) (next : List Byte → State → State)
    (h : payloadLen i - got.length ≤ s.dataIn.length) :
    absorb i got s next =
      next (got ++ s.dataIn.take (payloadLen i - got.length))
        { s with dataIn := s.dataIn.drop (payloadLen i - got.length) } := by
  simp [absorb, h, inBytes]

/-- R132: ABSORB with a part of the payload missing. -/
theorem absorb_waits (i : Instr) (got : List Byte) (s : State) (next : List Byte → State → State)
    (h : s.dataIn.length < payloadLen i - got.length) :
    absorb i got s next = { s with dataIn := [], phase := .absorb i (got ++ s.dataIn) } := by
  simp [absorb, Nat.not_le.mpr h]

end Sys2Proof.Machine
end

