-- ==== Sys2Proof/Laws/Hashing.lean ====
section
/-! SUPPORT. The loops that issue hash requests, each as one closed form: Hash_df through the port (R69), GENERATE's
output loop (R101). -/

namespace Sys2Proof.Machine

/-- The state after the engine has answered the requests `ms`, in order. -/
def State.hashed (ms : List (List Byte)) (s : State) : State :=
  { s with hashPort := s.hashPort ++ ms, engine := if ms = [] then s.engine else .fresh }

@[simp] theorem hashed_V (ms : List (List Byte)) (s : State) : (s.hashed ms).V = s.V := rfl
@[simp] theorem hashed_C (ms : List (List Byte)) (s : State) : (s.hashed ms).C = s.C := rfl
@[simp] theorem hashed_RC (ms : List (List Byte)) (s : State) : (s.hashed ms).RC = s.RC := rfl
@[simp] theorem hashed_INST (ms : List (List Byte)) (s : State) : (s.hashed ms).INST = s.INST := rfl
@[simp] theorem hashed_phase (ms : List (List Byte)) (s : State) : (s.hashed ms).phase = s.phase := rfl
@[simp] theorem hashed_cfg (ms : List (List Byte)) (s : State) : (s.hashed ms).cfg = s.cfg := rfl
@[simp] theorem hashed_cmdIn (ms : List (List Byte)) (s : State) : (s.hashed ms).cmdIn = s.cmdIn := rfl
@[simp] theorem hashed_dataIn (ms : List (List Byte)) (s : State) : (s.hashed ms).dataIn = s.dataIn := rfl
@[simp] theorem hashed_dataOut (ms : List (List Byte)) (s : State) : (s.hashed ms).dataOut = s.dataOut := rfl
@[simp] theorem hashed_responses (ms : List (List Byte)) (s : State) : (s.hashed ms).responses = s.responses := rfl
@[simp] theorem hashed_rst (ms : List (List Byte)) (s : State) : (s.hashed ms).rst = s.rst := rfl
@[simp] theorem hashed_outReady (ms : List (List Byte)) (s : State) : (s.hashed ms).outReady = s.outReady := rfl
@[simp] theorem hashed_rspReady (ms : List (List Byte)) (s : State) : (s.hashed ms).rspReady = s.rspReady := rfl
@[simp] theorem hashed_engineAnswers (ms : List (List Byte)) (s : State) : (s.hashed ms).engineAnswers = s.engineAnswers := rfl

theorem hashed_nil (s : State) : s.hashed [] = s := by simp [State.hashed]

theorem hashed_hashed (ms ns : List (List Byte)) (s : State) :
    (s.hashed ms).hashed ns = s.hashed (ms ++ ns) := by
  by_cases hm : ms = [] <;> by_cases hn : ns = [] <;> simp [State.hashed, hm, hn]

theorem hashRequest_hashed (m : List Byte) (s : State) : (hashRequest m s).2 = s.hashed [m] := by
  rw [hashRequest_eq]
  simp [State.hashed]

/-! ### Hash_df -/

/-- One turn of the loop of R69. -/
theorem dfLoop_more (n : Nat) (M : List Byte) (fuel : Nat) (counter : Byte) (out : List Byte) (h : out.length < n) :
    dfLoop n M (fuel + 1) counter out =
      dfLoop n M fuel (counter + 1)
        (out ++ (digestBytes (SHA256 (dfMessage n counter M))).take (min (n - out.length) DIGEST)) := by
  simp [dfLoop, h]

/-- R69: the loop ends when `n` bytes are there. -/
theorem dfLoop_done (n : Nat) (M : List Byte) (fuel : Nat) (counter : Byte) (out : List Byte) (h : n ≤ out.length) :
    dfLoop n M fuel counter out = out := by
  cases fuel <;> simp [dfLoop, Nat.not_lt.mpr h]

theorem DfRun.unfinished_iff (df : DfRun) : df.unfinished = true ↔ df.out.length < SEEDLEN := by
  simp [DfRun.unfinished]

/-- R69: what a turn adds. -/
theorem DfRun.take_out (df : DfRun) (d : Digest) :
    (df.take d).out = df.out ++ (digestBytes d).take (min (SEEDLEN - df.out.length) DIGEST) := rfl

/-- R69, R73: a turn brings the length up by 32, or to 55. -/
theorem DfRun.take_length (df : DfRun) (d : Digest) (h : df.out.length ≤ SEEDLEN) :
    (df.take d).out.length = min SEEDLEN (df.out.length + DIGEST) := by
  simp [DfRun.take_out]
  omega

/-- The messages of the requests that `dfRequests` issues. -/
def dfMessages : Nat → DfRun → List (List Byte)
  | 0, _ => []
  | fuel + 1, df => if df.unfinished then df.message :: dfMessages fuel (df.take (SHA256 df.message)) else []

/-- R69: the calls through the hash port derive what the pure loop derives. -/
theorem dfRequests_out (fuel : Nat) (df : DfRun) (s : State) :
    (dfRequests fuel df s).1.out = dfLoop SEEDLEN df.msg fuel df.counter df.out := by
  induction fuel generalizing df s with
  | zero => rfl
  | succ fuel ih =>
    by_cases h : df.unfinished = true
    · rw [dfLoop_more _ _ _ _ _ (df.unfinished_iff.mp h)]
      simp only [dfRequests, h, if_true, ih, hashRequest_digest]
      rfl
    · rw [dfLoop_done _ _ _ _ _ (by simpa [DfRun.unfinished] using h)]
      simp [dfRequests, h]

/-- R48: all that they do to the state. -/
theorem dfRequests_state (fuel : Nat) (df : DfRun) (s : State) :
    (dfRequests fuel df s).2 = s.hashed (dfMessages fuel df) := by
  induction fuel generalizing df s with
  | zero => simp [dfRequests, dfMessages, hashed_nil]
  | succ fuel ih =>
    by_cases h : df.unfinished = true
    · simp only [dfRequests, dfMessages, h, if_true, ih, hashRequest_digest, hashRequest_hashed, hashed_hashed,
        List.singleton_append]
    · simp [dfRequests, dfMessages, h, hashed_nil]

/-- R75: a call from its start derives Hash_df of its message. -/
theorem dfRequests_start_result (M : List Byte) (s : State) :
    (dfRequests (dfTurns SEEDLEN) (DfRun.start M) s).1.result = hashDf55 M := by
  simp [DfRun.result, dfRequests_out, hashDf55, DfRun.start]

theorem dfTurns_seed : dfTurns SEEDLEN = 2 := rfl

/-- R75: a call from its start makes exactly two requests. -/
theorem dfMessages_start (M : List Byte) :
    dfMessages (dfTurns SEEDLEN) (DfRun.start M) = [dfMessage SEEDLEN 0x01 M, dfMessage SEEDLEN 0x02 M] := by
  have h0 : (DfRun.start M).unfinished = true := rfl
  have hl1 := DfRun.take_length (DfRun.start M) (SHA256 (DfRun.start M).message) (by simp [DfRun.start])
  have h1 : ((DfRun.start M).take (SHA256 (DfRun.start M).message)).unfinished = true := by
    rw [DfRun.unfinished_iff, hl1]
    simp [DfRun.start, SEEDLEN, DIGEST]
  rw [dfTurns_seed, dfMessages, if_pos h0, dfMessages, if_pos h1]
  rfl

/-- R69, R76: both facts about a call from its start. -/
theorem dfRequests_start_state (M : List Byte) (s : State) :
    (dfRequests (dfTurns SEEDLEN) (DfRun.start M) s).2 = s.hashed [dfMessage SEEDLEN 0x01 M, dfMessage SEEDLEN 0x02 M] := by
  rw [dfRequests_state, dfMessages_start]

/-- R89, R93: DERIVE_V to the response, the engine answering. -/
theorem fromDeriveV_start (M : List Byte) (s : State) (h : s.engineAnswers = true) :
    fromDeriveV (DfRun.start M) s =
      commitAndRespond (.seed (hashDf55 M) (hashDf55 (constantSeed (hashDf55 M))))
        (s.hashed [dfMessage SEEDLEN 0x01 M, dfMessage SEEDLEN 0x02 M,
          dfMessage SEEDLEN 0x01 (constantSeed (hashDf55 M)), dfMessage SEEDLEN 0x02 (constantSeed (hashDf55 M))]) := by
  simp [fromDeriveV, fromDeriveC, h, dfRequests_start_result, dfRequests_start_state, hashed_hashed]

/-- R68: DERIVE_V waits while the engine does not answer. -/
theorem fromDeriveV_waits (M : List Byte) (s : State) (h : s.engineAnswers = false) :
    fromDeriveV (DfRun.start M) s = { s with phase := .deriveV (DfRun.start M) } := by
  have h0 : (DfRun.start M).unfinished = true := rfl
  simp [fromDeriveV, h, h0, State.goto]

/-! ### GENERATE's output loop -/

/-- The output bytes of `turns` turns of the loop. -/
def loopBytes : Nat → SeedVal → Nat → List Byte
  | 0, _, _ => []
  | turns + 1, temp, left =>
    (digestBytes (SHA256 (seedBytes temp))).take (min left DIGEST) ++ loopBytes turns (inc temp) (left - DIGEST)

/-- The messages hashed in `turns` turns. -/
def loopMessages : Nat → SeedVal → List (List Byte)
  | 0, _ => []
  | turns + 1, temp => seedBytes temp :: loopMessages turns (inc temp)

/-- R101: one turn. -/
theorem outputBlock_eq (temp : SeedVal) (left : Nat) (s : State) :
    outputBlock temp left s =
      ((digestBytes (SHA256 (seedBytes temp))).take (min left DIGEST), s.hashed [seedBytes temp]) := by
  simp [outputBlock, hashRequest_hashed]

/-- R101: all that the loop does. -/
theorem outputLoop_eq (turns : Nat) (temp : SeedVal) (left : Nat) (s : State) :
    outputLoop turns temp left s =
      { s.hashed (loopMessages turns temp) with dataOut := s.dataOut ++ loopBytes turns temp left } := by
  induction turns generalizing temp left s with
  | zero => simp [outputLoop, loopMessages, loopBytes, State.hashed]
  | succ turns ih =>
    rw [outputLoop, ih, outputBlock_eq]
    simp [State.hashed, outBytes, loopMessages, loopBytes]

/-- R101, R104: the loop's turns for `left` bytes make `left` bytes. -/
theorem loopBytes_length (temp : SeedVal) (left : Nat) :
    (loopBytes (blockCount left) temp left).length = left := by
  have key : ∀ turns temp left, left ≤ turns * DIGEST → (loopBytes turns temp left).length = left := by
    intro turns
    induction turns with
    | zero => intro temp left h; simp [loopBytes]; omega
    | succ turns ih =>
      intro temp left h
      rw [Nat.succ_mul] at h
      rw [loopBytes, List.length_append, ih _ _ (by omega)]
      simp
      omega
  apply key
  simp only [blockCount, DIGEST]
  omega

end Sys2Proof.Machine
end

