-- ==== Sys2Proof/Laws/Exec.lean ====
section
/-! SUPPORT. What a command and a step come to, as states: the check, then the rejection or the rest of the command. -/

namespace Sys2Proof.Machine

/-- R46: the state a command leads to. -/
def execState (i : Instr) (s : State) : State :=
  match precondition i s with
  | some e => raise e s
  | none => resumeAbsorb i [] s

/-- R46, R98: every command is its check, then its rejection or what follows ABSORB. -/
theorem exec_eq (i : Instr) (s : State) : exec i s = .next (execState i s) := by
  cases i with
  | instantiate e n p =>
    simp only [exec, execInstantiate, execState, precondition, resumeAbsorb]
    cases instantiateError s.cfg e n p <;> rfl
  | reseed e a =>
    simp only [exec, execReseed, execState, precondition, resumeAbsorb]
    cases reseedError s.cfg e a <;> rfl
  | generate a n =>
    simp only [exec, execGenerate, execState, precondition, resumeAbsorb]
    cases generateError s.cfg s.INST s.RC a n <;> rfl

/-- R58: the state a descriptor leads to. -/
def descriptorState (d : Descriptor) (s : State) : State :=
  match decode d with
  | .command i => execState i s
  | .illegal _ => raise .illegalCommand s

theorem runDescriptor_eq (d : Descriptor) (s : State) : runDescriptor d s = .next (descriptorState d s) := by
  unfold runDescriptor descriptorState
  cases decode d with
  | command i => exact exec_eq i s
  | illegal w => rfl

/-- R45, R127: the state the acceptance of the next descriptor leads to. -/
def acceptState (s : State) : State :=
  match s.cmdIn with
  | [] => s
  | d :: rest => descriptorState d { s with cmdIn := rest }

/-- R116: the state in which the sequencer, standing at control state `p`, comes to rest. -/
def proceedFrom (p : Phase) (s : State) : State :=
  match p with
  | .idle => acceptState s
  | .check d => descriptorState d s
  | .absorb i got => resumeAbsorb i got s
  | .deriveV df => fromDeriveV df s
  | .deriveC newV df => fromDeriveC newV df s
  | .genW add n => fromGenW add n s
  | .genOut vw temp pending left => fromGenOut vw temp pending left s
  | .genH vw => fromGenH vw s
  | .commit w => commitAndRespond w s
  | .respond st => respond st s

theorem proceed_eq (s : State) : proceed s = .next (proceedFrom s.phase s) := by
  unfold proceed proceedFrom
  cases s.phase with
  | idle =>
    simp only [acceptNext, acceptState]
    cases s.cmdIn with
    | nil => rfl
    | cons d rest => exact runDescriptor_eq d _
  | check d => exact runDescriptor_eq d s
  | _ => rfl

/-- The state a step leads to. -/
theorem step_eq (s : State) :
    step s = .next (if s.rst = true then s.applyReset else proceedFrom s.phase s) := by
  unfold step stepOnce
  split
  · rfl
  · exact proceed_eq s

theorem advance_eq (s : State) :
    advance s = if s.rst = true then s.applyReset else proceedFrom s.phase s := by
  simp [advance, step_eq]

/-! ### The checks, as propositions -/

@[simp] theorem insufficient_iff (len : Nat) : insufficient len = true ↔ len < 16 := decide_eq_true_iff

@[simp] theorem tooLarge_iff (n : Nat) : tooLarge n = true ↔ 65536 < n := decide_eq_true_iff

@[simp] theorem oversized_iff (cfg : Config) (len : Nat) : oversized cfg len = true ↔ cfg.maxInputBytes.toNat < len :=
  decide_eq_true_iff

@[simp] theorem reseedRequired_iff (cfg : Config) (inst : Bool) (rc : BitVec 64) :
    reseedRequired cfg inst rc = true ↔ inst = false ∨ cfg.reseedInterval.toNat < rc.toNat := by
  simp [reseedRequired]

/-- R86, R88, R114: when INSTANTIATE is rejected, and why. -/
theorem instantiateError_iff (cfg : Config) (e n p : Nat) (err : DrbgError) :
    instantiateError cfg e n p = some err ↔
      (err = .insufficientEntropy ∧ e < 16) ∨
      (err = .oversizedInput ∧ 16 ≤ e ∧
        (cfg.maxInputBytes.toNat < e ∨ cfg.maxInputBytes.toNat < n ∨ cfg.maxInputBytes.toNat < p)) := by
  simp only [instantiateError, insufficient_iff, oversized_iff]
  cases err <;> split_ifs <;> simp <;> omega

theorem instantiateError_none (cfg : Config) (e n p : Nat) :
    instantiateError cfg e n p = none ↔
      16 ≤ e ∧ e ≤ cfg.maxInputBytes.toNat ∧ n ≤ cfg.maxInputBytes.toNat ∧ p ≤ cfg.maxInputBytes.toNat := by
  simp only [instantiateError, insufficient_iff, oversized_iff]
  split_ifs <;> simp <;> omega

/-- R86, R88, R114: when RESEED is rejected, and why. -/
theorem reseedError_iff (cfg : Config) (e a : Nat) (err : DrbgError) :
    reseedError cfg e a = some err ↔
      (err = .insufficientEntropy ∧ e < 16) ∨
      (err = .oversizedInput ∧ 16 ≤ e ∧ (cfg.maxInputBytes.toNat < e ∨ cfg.maxInputBytes.toNat < a)) := by
  simp only [reseedError, insufficient_iff, oversized_iff]
  cases err <;> split_ifs <;> simp <;> omega

theorem reseedError_none (cfg : Config) (e a : Nat) :
    reseedError cfg e a = none ↔ 16 ≤ e ∧ e ≤ cfg.maxInputBytes.toNat ∧ a ≤ cfg.maxInputBytes.toNat := by
  simp only [reseedError, insufficient_iff, oversized_iff]
  split_ifs <;> simp <;> omega

/-- R83, R87, R88, R98: when GENERATE is rejected, and why. -/
theorem generateError_iff (cfg : Config) (inst : Bool) (rc : BitVec 64) (a n : Nat) (err : DrbgError) :
    generateError cfg inst rc a n = some err ↔
      (err = .reseedRequired ∧ (inst = false ∨ cfg.reseedInterval.toNat < rc.toNat)) ∨
      (err = .requestTooLarge ∧ inst = true ∧ rc.toNat ≤ cfg.reseedInterval.toNat ∧ 65536 < n) ∨
      (err = .oversizedInput ∧ inst = true ∧ rc.toNat ≤ cfg.reseedInterval.toNat ∧ n ≤ 65536 ∧
        cfg.maxInputBytes.toNat < a) := by
  simp only [generateError, tooLarge_iff, oversized_iff, reseedRequired_iff]
  cases inst <;> cases err <;> split_ifs <;> simp_all

theorem generateError_none (cfg : Config) (inst : Bool) (rc : BitVec 64) (a n : Nat) :
    generateError cfg inst rc a n = none ↔
      inst = true ∧ rc.toNat ≤ cfg.reseedInterval.toNat ∧ n ≤ 65536 ∧ a ≤ cfg.maxInputBytes.toNat := by
  simp only [generateError, tooLarge_iff, oversized_iff, reseedRequired_iff]
  cases inst <;> split_ifs <;> simp_all

/-- R112: a rejected command. -/
theorem exec_rejects (i : Instr) (s : State) (e : DrbgError) (h : precondition i s = some e) :
    exec i s = .next (raise e s) := by
  rw [exec_eq, execState, h]

/-- R46: an accepted command goes on to ABSORB. -/
theorem exec_accepts (i : Instr) (s : State) (h : precondition i s = none) :
    exec i s = .next (resumeAbsorb i [] s) := by
  rw [exec_eq, execState, h]

/-- R55: ABSORB with the whole payload there. -/
theorem resumeAbsorb_enough (i : Instr) (got : List Byte) (s : State)
    (h : payloadLen i - got.length ≤ s.dataIn.length) :
    resumeAbsorb i got s =
      proceedFrom (afterAbsorb i (got ++ s.dataIn.take (payloadLen i - got.length)) s)
        { s with dataIn := s.dataIn.drop (payloadLen i - got.length) } := by
  cases i with
  | instantiate e n p => simp [resumeAbsorb, absorbInstantiate, absorb_enough _ _ _ _ h, afterAbsorb, proceedFrom]
  | reseed e a => simp [resumeAbsorb, absorbReseed, absorb_enough _ _ _ _ h, afterAbsorb, proceedFrom]
  | generate a n =>
    simp only [resumeAbsorb, absorbGenerate, absorb_enough _ _ _ _ h, afterAbsorb, startGenerate]
    split <;> rfl

/-- R132: ABSORB with a part of the payload missing. -/
theorem resumeAbsorb_waits (i : Instr) (got : List Byte) (s : State)
    (h : s.dataIn.length < payloadLen i - got.length) :
    resumeAbsorb i got s = { s with dataIn := [], phase := .absorb i (got ++ s.dataIn) } := by
  cases i <;> simp [resumeAbsorb, absorbInstantiate, absorbReseed, absorbGenerate, absorb_waits _ _ _ _ h]

end Sys2Proof.Machine
end

