-- ==== Sys2Proof/Laws/Phase.lean ====
section
/-! SUPPORT. No operation reads the control state it starts from: where the sequencer stood does not matter once it goes
on from a control state that is given. -/

namespace Sys2Proof.Machine

@[simp] theorem goto_goto (s : State) (p q : Phase) : (s.goto p).goto q = s.goto q := rfl

@[simp] theorem hashed_goto (ms : List (List Byte)) (s : State) (q : Phase) :
    (s.goto q).hashed ms = (s.hashed ms).goto q := rfl

@[simp] theorem outBytes_of_goto (bs : List Byte) (s : State) (q : Phase) :
    outBytes bs (s.goto q) = (outBytes bs s).goto q := rfl

@[simp] theorem commit_of_goto (w : Writes) (s : State) (q : Phase) : commit w (s.goto q) = (commit w s).goto q := by
  cases w <;> rfl

@[simp] theorem respond_of_goto (st : Status) (s : State) (q : Phase) : respond st (s.goto q) = respond st s := by
  simp only [respond, goto_rspReady, goto_goto]
  rfl

@[simp] theorem raise_of_goto (e : DrbgError) (s : State) (q : Phase) : raise e (s.goto q) = raise e s := by
  simp [raise]

@[simp] theorem commitAndRespond_of_goto (w : Writes) (s : State) (q : Phase) :
    commitAndRespond w (s.goto q) = commitAndRespond w s := by
  simp [commitAndRespond]

theorem dfRequests_fst (fuel : Nat) (df : DfRun) (s t : State) : (dfRequests fuel df s).1 = (dfRequests fuel df t).1 := by
  induction fuel generalizing df s t with
  | zero => rfl
  | succ fuel ih =>
    unfold dfRequests
    split
    · simp only [hashRequest_digest]
      exact ih _ _ _
    · rfl

@[simp] theorem dfRequests_of_goto (fuel : Nat) (df : DfRun) (s : State) (q : Phase) :
    (dfRequests fuel df (s.goto q)).1 = (dfRequests fuel df s).1 := dfRequests_fst _ _ _ _

@[simp] theorem fromDeriveC_of_goto (newV : SeedVal) (df : DfRun) (s : State) (q : Phase) :
    fromDeriveC newV df (s.goto q) = fromDeriveC newV df s := by
  simp [fromDeriveC, dfRequests_state]

@[simp] theorem fromDeriveV_of_goto (df : DfRun) (s : State) (q : Phase) :
    fromDeriveV df (s.goto q) = fromDeriveV df s := by
  simp [fromDeriveV, dfRequests_state]

@[simp] theorem fromGenH_of_goto (vw : SeedVal) (s : State) (q : Phase) : fromGenH vw (s.goto q) = fromGenH vw s := by
  simp [fromGenH, hashRequest_hashed]

@[simp] theorem outputBlock_of_goto (temp : SeedVal) (left : Nat) (s : State) (q : Phase) :
    outputBlock temp left (s.goto q) = ((outputBlock temp left s).1, (outputBlock temp left s).2.goto q) := rfl

@[simp] theorem outputLoop_of_goto (turns : Nat) (temp : SeedVal) (left : Nat) (s : State) (q : Phase) :
    outputLoop turns temp left (s.goto q) = (outputLoop turns temp left s).goto q := by
  rw [outputLoop_eq, outputLoop_eq]
  rfl

@[simp] theorem fromGenOut_of_goto (vw temp : SeedVal) (pending : List Byte) (left : Nat) (s : State) (q : Phase) :
    fromGenOut vw temp pending left (s.goto q) = fromGenOut vw temp pending left s := by
  simp [fromGenOut]

@[simp] theorem fromGenW_of_goto (add : List Byte) (n : Nat) (s : State) (q : Phase) :
    fromGenW add n (s.goto q) = fromGenW add n s := by
  simp [fromGenW, hashRequest_hashed]

theorem precondition_congr (i : Instr) (s t : State) (hc : s.cfg = t.cfg) (hi : s.INST = t.INST) (hr : s.RC = t.RC) :
    precondition i s = precondition i t := by
  cases i <;> simp [precondition, hc, hi, hr]

@[simp] theorem precondition_of_goto (i : Instr) (s : State) (q : Phase) :
    precondition i (s.goto q) = precondition i s := precondition_congr i _ _ rfl rfl rfl

@[simp] theorem afterAbsorb_of_goto (i : Instr) (payload : List Byte) (s : State) (q : Phase) :
    afterAbsorb i payload (s.goto q) = afterAbsorb i payload s := by
  cases i <;> rfl

/-- R27: ABSORB is followed by DERIVE_V, by GEN_W with an additional input, or by GEN_OUT at its start. -/
theorem afterAbsorb_cases (i : Instr) (payload : List Byte) (s : State) :
    (∃ M, afterAbsorb i payload s = .deriveV (DfRun.start M)) ∨
      (∃ add n, add ≠ [] ∧ afterAbsorb i payload s = .genW add n) ∨
      (∃ n, afterAbsorb i payload s = .genOut s.V s.V [] n) := by
  cases i with
  | instantiate e n p => exact .inl ⟨_, rfl⟩
  | reseed e a => exact .inl ⟨_, rfl⟩
  | generate a n =>
    by_cases h : payloadField payload 0 a = []
    · exact .inr (.inr ⟨n, by simp [afterAbsorb, h]⟩)
    · exact .inr (.inl ⟨_, n, h, by simp [afterAbsorb, h]⟩)

theorem resumeAbsorb_of_goto (i : Instr) (got : List Byte) (s : State) (q : Phase) :
    resumeAbsorb i got (s.goto q) = resumeAbsorb i got s := by
  by_cases h : payloadLen i - got.length ≤ s.dataIn.length
  · rw [resumeAbsorb_enough _ _ _ h, resumeAbsorb_enough _ _ (s.goto q) h, afterAbsorb_of_goto]
    change proceedFrom _ ((inBytes (payloadLen i - got.length) s).2.goto q) = proceedFrom _ (inBytes _ s).2
    rcases afterAbsorb_cases i (got ++ s.dataIn.take (payloadLen i - got.length)) s with
      ⟨M, hp⟩ | ⟨add, n, -, hp⟩ | ⟨n, hp⟩
    · rw [goto_dataIn, hp]
      exact fromDeriveV_of_goto _ _ _
    · rw [goto_dataIn, hp]
      exact fromGenW_of_goto _ _ _ _
    · rw [goto_dataIn, hp]
      exact fromGenOut_of_goto _ _ _ _ _ _
  · have hw : s.dataIn.length < payloadLen i - got.length := by omega
    rw [resumeAbsorb_waits _ _ s hw, resumeAbsorb_waits _ _ (s.goto q) hw]
    rfl

@[simp] theorem execState_of_goto (i : Instr) (s : State) (q : Phase) : execState i (s.goto q) = execState i s := by
  simp [execState, resumeAbsorb_of_goto]

@[simp] theorem descriptorState_of_goto (d : Descriptor) (s : State) (q : Phase) :
    descriptorState d (s.goto q) = descriptorState d s := by
  simp [descriptorState]

/-- R116: a command that waited goes on from where it stands. -/
theorem proceedFrom_of_goto (p : Phase) (hp : p ≠ .idle) (s : State) (q : Phase) :
    proceedFrom p (s.goto q) = proceedFrom p s := by
  cases p <;> simp_all [proceedFrom, resumeAbsorb_of_goto]

end Sys2Proof.Machine
end

