-- ==== Sys2Proof/Laws/Frames.lean ====
section
/-! SUPPORT. What every operation leaves alone: the build parameters, the command channel, the lines. With it the case
lemmas of the commit and of a Hash_df call, and the loop of a call taken one turn at a time. -/

namespace Sys2Proof.Machine

/-- The fields that no operation of a running command writes. -/
structure SameLines (s t : State) : Prop where
  cfg : t.cfg = s.cfg
  cmdIn : t.cmdIn = s.cmdIn
  rst : t.rst = s.rst
  outReady : t.outReady = s.outReady
  rspReady : t.rspReady = s.rspReady
  engineAnswers : t.engineAnswers = s.engineAnswers

theorem SameLines.trans {s t u : State} (h : SameLines s t) (g : SameLines t u) : SameLines s u :=
  ⟨g.cfg.trans h.cfg, g.cmdIn.trans h.cmdIn, g.rst.trans h.rst, g.outReady.trans h.outReady,
    g.rspReady.trans h.rspReady, g.engineAnswers.trans h.engineAnswers⟩

theorem goto_sameLines (s : State) (p : Phase) : SameLines s (s.goto p) := SameLines.mk rfl rfl rfl rfl rfl rfl
theorem hashed_sameLines (ms : List (List Byte)) (s : State) : SameLines s (s.hashed ms) := SameLines.mk rfl rfl rfl rfl rfl rfl
theorem outBytes_sameLines (bs : List Byte) (s : State) : SameLines s (outBytes bs s) := SameLines.mk rfl rfl rfl rfl rfl rfl
theorem inBytes_sameLines (n : Nat) (s : State) : SameLines s (inBytes n s).2 := SameLines.mk rfl rfl rfl rfl rfl rfl

theorem respond_sameLines (st : Status) (s : State) : SameLines s (respond st s) := by
  rcases respond_cases st s with ⟨-, h⟩ | ⟨-, h⟩ <;> rw [h] <;> exact SameLines.mk rfl rfl rfl rfl rfl rfl

theorem commit_sameLines (w : Writes) (s : State) : SameLines s (commit w s) := by
  cases w <;> exact SameLines.mk rfl rfl rfl rfl rfl rfl

theorem commitAndRespond_sameLines (w : Writes) (s : State) : SameLines s (commitAndRespond w s) :=
  (commit_sameLines w s).trans (respond_sameLines _ _)

theorem fromDeriveC_sameLines (newV : SeedVal) (df : DfRun) (s : State) : SameLines s (fromDeriveC newV df s) := by
  unfold fromDeriveC
  split
  · exact goto_sameLines _ _
  · simp only [dfRequests_state]
    exact (hashed_sameLines _ _).trans (commitAndRespond_sameLines _ _)

theorem fromDeriveV_sameLines (df : DfRun) (s : State) : SameLines s (fromDeriveV df s) := by
  unfold fromDeriveV
  split
  · exact goto_sameLines _ _
  · simp only [dfRequests_state]
    exact (hashed_sameLines _ _).trans (fromDeriveC_sameLines _ _ _)

theorem fromGenH_sameLines (vw : SeedVal) (s : State) : SameLines s (fromGenH vw s) := by
  unfold fromGenH
  split
  · exact goto_sameLines _ _
  · simp only [hashRequest_hashed]
    exact (hashed_sameLines _ _).trans (commitAndRespond_sameLines _ _)

theorem outputLoop_sameLines (turns : Nat) (temp : SeedVal) (left : Nat) (s : State) :
    SameLines s (outputLoop turns temp left s) := by
  rw [outputLoop_eq]
  exact SameLines.mk rfl rfl rfl rfl rfl rfl

theorem fromGenOut_sameLines (vw temp : SeedVal) (pending : List Byte) (left : Nat) (s : State) :
    SameLines s (fromGenOut vw temp pending left s) := by
  unfold fromGenOut
  split
  · exact goto_sameLines _ _
  · refine (outBytes_sameLines pending s).trans ?_
    simp only
    split_ifs
    · exact fromGenH_sameLines _ _
    · exact goto_sameLines _ _
    · rw [outputBlock_eq]
      exact (hashed_sameLines _ _).trans (goto_sameLines _ _)
    · exact (outputLoop_sameLines _ _ _ _).trans (fromGenH_sameLines _ _)

theorem fromGenW_sameLines (add : List Byte) (n : Nat) (s : State) : SameLines s (fromGenW add n s) := by
  unfold fromGenW
  split
  · exact goto_sameLines _ _
  · simp only [hashRequest_hashed]
    exact (hashed_sameLines _ _).trans (fromGenOut_sameLines _ _ _ _ _)

theorem resumeAbsorb_sameLines (i : Instr) (got : List Byte) (s : State) : SameLines s (resumeAbsorb i got s) := by
  by_cases h : payloadLen i - got.length ≤ s.dataIn.length
  · rw [resumeAbsorb_enough _ _ _ h]
    refine (inBytes_sameLines (payloadLen i - got.length) s).trans ?_
    rcases afterAbsorb_cases i (got ++ s.dataIn.take (payloadLen i - got.length)) s with
      ⟨M, hp⟩ | ⟨add, n, -, hp⟩ | ⟨n, hp⟩ <;> rw [hp]
    · exact fromDeriveV_sameLines _ _
    · exact fromGenW_sameLines _ _ _
    · exact fromGenOut_sameLines _ _ _ _ _
  · rw [resumeAbsorb_waits _ _ _ (by omega)]
    exact SameLines.mk rfl rfl rfl rfl rfl rfl

theorem execState_sameLines (i : Instr) (s : State) : SameLines s (execState i s) := by
  unfold execState
  split
  · exact respond_sameLines _ _
  · exact resumeAbsorb_sameLines _ _ _

/-! ### Cases -/

/-- R31, R56: a commit, then its response taken or waiting. -/
theorem commitAndRespond_cases (w : Writes) (s : State) :
    (s.rspReady = true ∧
        commitAndRespond w s = { commit w s with responses := s.responses ++ [.ok], phase := .idle }) ∨
      (s.rspReady = false ∧ commitAndRespond w s = { commit w s with phase := .respond .ok }) := by
  cases w with
  | seed v c => exact respond_cases .ok (commit (.seed v c) s)
  | advance v => exact respond_cases .ok (commit (.advance v) s)

/-! ### One turn of a Hash_df call -/

/-- R69: a call of which no more bytes are wanted makes no request. -/
theorem dfRequests_finished (fuel : Nat) (df : DfRun) (s : State) (h : df.unfinished = false) :
    dfRequests fuel df s = (df, s) := by
  cases fuel <;> simp [dfRequests, h]

/-- R69: with fuel enough for what is left of a call, more fuel changes nothing. -/
theorem dfRequests_fuel (j k : Nat) (df : DfRun) (s : State) (hj : j ≤ k)
    (h : SEEDLEN ≤ df.out.length + DIGEST * j) : dfRequests k df s = dfRequests j df s := by
  induction j generalizing df s k with
  | zero =>
    have hf : df.unfinished = false := by
      rw [← Bool.not_eq_true, DfRun.unfinished_iff]
      omega
    rw [dfRequests_finished _ _ _ hf, dfRequests_finished _ _ _ hf]
  | succ j ih =>
    obtain ⟨k, rfl⟩ : ∃ m, k = m + 1 := ⟨k - 1, by omega⟩
    by_cases hu : df.unfinished = true
    · have hl := DfRun.take_length df (hashRequest df.message s).1 (by have := df.unfinished_iff.mp hu; omega)
      simp only [dfRequests, hu, if_true]
      exact ih k _ _ (by omega) (by rw [hl]; simp only [SEEDLEN, DIGEST] at h ⊢; omega)
    · rw [dfRequests_finished _ _ _ (by simpa using hu), dfRequests_finished _ _ _ (by simpa using hu)]

/-- R69: a call is its next request and the rest of it. -/
theorem dfRequests_turn (df : DfRun) (s : State) (h : df.unfinished = true) :
    dfRequests (dfTurns SEEDLEN) df s =
      dfRequests (dfTurns SEEDLEN) (df.take (hashRequest df.message s).1) (hashRequest df.message s).2 := by
  have hl := DfRun.take_length df (hashRequest df.message s).1 (by have := df.unfinished_iff.mp h; omega)
  have hf := dfRequests_fuel 1 2 (df.take (hashRequest df.message s).1) (hashRequest df.message s).2 (by omega)
    (by rw [hl]; simp [SEEDLEN, DIGEST])
  rw [dfTurns_seed, hf, dfRequests, if_pos h]

end Sys2Proof.Machine
end

