-- ==== Sys2Proof/Laws/Operands.lean ====
section
/-! SUPPORT. A payload laid out as R55 says is taken apart into the byte strings it was made of. -/

namespace Sys2Proof.Machine

/-- R89: entropy, nonce and personalization string, recovered and joined again. -/
theorem instantiateSeed_eq (e no p : List Byte) :
    instantiateSeed e.length no.length p.length (e ++ no ++ p) = e ++ no ++ p := by
  have hd : (e ++ no ++ p).drop (e.length + no.length) = p := by
    rw [← List.length_append, List.drop_left]
  have hn : ((e ++ no ++ p).drop e.length).take no.length = no := by
    rw [List.append_assoc, List.drop_left, List.take_left]
  have he : ((e ++ no ++ p).drop 0).take e.length = e := by
    rw [List.drop_zero, List.append_assoc, List.take_left]
  simp only [instantiateSeed, payloadField, hd, hn, he, List.take_length]

/-- R93: entropy and additional input. -/
theorem reseedSeed_eq (V : SeedVal) (e a : List Byte) :
    reseedSeed V e.length a.length (e ++ a) = 0x01 :: (seedBytes V ++ e ++ a) := by
  simp [reseedSeed, payloadField]

/-- R97: the whole payload of GENERATE is its additional input. -/
theorem payloadField_all (a : List Byte) : payloadField a 0 a.length = a := by
  simp [payloadField]

/-- R92: INSTANTIATE's seed material is its payload, however the payload is split. -/
theorem instantiateSeed_payload (entLen nonceLen persLen : Nat) (payload : List Byte)
    (h : payload.length = entLen + nonceLen + persLen) :
    instantiateSeed entLen nonceLen persLen payload = payload := by
  have hp : (payload.drop (entLen + nonceLen)).take persLen = payload.drop (entLen + nonceLen) :=
    List.take_of_length_le (by simp; omega)
  simp only [instantiateSeed, payloadField, List.drop_zero, hp]
  rw [← List.drop_drop, List.append_assoc, List.take_append_drop, List.take_append_drop]

end Sys2Proof.Machine
end

