-- ==== Sys2Proof/Laws/PerInstr.lean ====
section
/-! SUPPORT. Facts for each command as syntax, one lemma for each constructor. -/

namespace Sys2Proof.Laws.TableRow

open Sys2Proof

/-- spec/opcode_table.json: the bits a row fixes. -/
def mask : Instr → BitVec 128
  | .instantiate _ _ _ => 0xffffffff
  | .reseed _ _ => 0xffffffff0000000000000000ffffffff
  | .generate _ _ => 0xffffffff0000000000000000ffffffff

/-- spec/opcode_table.json: the values a row fixes them at. -/
def pattern : Instr → BitVec 128
  | .instantiate _ _ _ => 0x1
  | .reseed _ _ => 0x2
  | .generate _ _ => 0x3

/-- The descriptor of a command matches its row of the opcode table. -/
def Statement (i : Instr) : Prop := encode i &&& mask i = pattern i

/-- A descriptor under a mask that takes all of the command word and all or none of the last length field. -/
theorem descriptorOf_and (op : BitVec 4) (a b c : Nat) (m : BitVec 32) :
    descriptorOf op a b c &&& (m ++ 0#32 ++ 0#32 ++ BitVec.allOnes 32) =
      (BitVec.ofNat 32 c &&& m) ++ 0#32 ++ 0#32 ++ (0#28 ++ op) := by
  have key : ∀ w x y z : BitVec 32, (w ++ x ++ y ++ z) &&& (m ++ 0#32 ++ 0#32 ++ BitVec.allOnes 32) =
      (w &&& m) ++ 0#32 ++ 0#32 ++ z := by
    intro w x y z
    rw [BitVec.and_append, BitVec.and_append, BitVec.and_append, BitVec.and_zero, BitVec.and_zero, BitVec.and_allOnes]
  exact key _ _ _ (0#28 ++ op)

theorem instantiate (entLen nonceLen persLen : Nat) : Statement (.instantiate entLen nonceLen persLen) := by
  have h := descriptorOf_and opInstantiate entLen nonceLen persLen 0#32
  rw [BitVec.and_zero] at h
  exact h

theorem reseed (entLen addLen : Nat) : Statement (.reseed entLen addLen) :=
  descriptorOf_and opReseed entLen addLen 0 (BitVec.allOnes 32)

theorem generate (addLen n : Nat) : Statement (.generate addLen n) :=
  descriptorOf_and opGenerate addLen n 0 (BitVec.allOnes 32)

end Sys2Proof.Laws.TableRow
end

