-- ==== Sys2Proof/Machine/AsmText.lean ====
section
/-! DEFINITION. The assembler's text (R60, R61): a line of characters, the command or pseudo-command it stands for, and
how a result is written. What R60 leaves open of the spelling is log entry 23. -/

namespace Sys2Proof.Machine

/-- The double quotation mark. -/
def quoteMark : Char := Char.ofNat 34

/-- A hexadecimal digit. -/
def hexDigit (c : Char) : Option Nat :=
  if 48 ≤ c.toNat ∧ c.toNat ≤ 57 then some (c.toNat - 48)
  else if 97 ≤ c.toNat ∧ c.toNat ≤ 102 then some (c.toNat - 87)
  else if 65 ≤ c.toNat ∧ c.toNat ≤ 70 then some (c.toNat - 55)
  else none

/-- R60: an even number of hexadecimal digits, the first byte first. -/
def hexBytes : List Char → Option (List Byte)
  | [] => some []
  | [_] => none
  | a :: b :: rest =>
    match hexDigit a, hexDigit b, hexBytes rest with
    | some h, some l, some bs => some (BitVec.ofNat 8 (16 * h + l) :: bs)
    | _, _, _ => none

/-- R60: a byte string, an `x` and its digits between quotation marks. -/
def byteString (text : List Char) : Option (List Byte) :=
  match text with
  | x :: q :: rest =>
    if x = 'x' ∧ q = quoteMark ∧ rest.getLast? = some quoteMark then hexBytes rest.dropLast else none
  | _ => none

/-- A decimal digit added to the digits before it. -/
def decimalStep (acc : Option Nat) (c : Char) : Option Nat :=
  match acc with
  | some n => if 48 ≤ c.toNat ∧ c.toNat ≤ 57 then some (10 * n + (c.toNat - 48)) else none
  | none => none

/-- R60: a count in decimal. -/
def decimalCount (text : List Char) : Option Nat := if text = [] then none else text.foldl decimalStep (some 0)

/-- An argument: its name and its value's text. -/
abbrev AsmArg := List Char × List Char

/-- The arguments of a line, spaces left out, separated by commas. -/
def asmArgs (text : List Char) : List AsmArg :=
  let t := text.filter (· ≠ ' ')
  if t = [] then [] else (t.splitOn ',').map fun a => (a.takeWhile (· ≠ '='), (a.dropWhile (· ≠ '=')).drop 1)

/-- R60: the byte-string argument `name` when it comes next, the empty string when it is left out; and the arguments
after it. -/
def takeBytes (name : List Char) (args : List AsmArg) : Option (List Byte × List AsmArg) :=
  match args with
  | [] => some ([], [])
  | (k, v) :: rest => if k = name then (byteString v).map fun bs => (bs, rest) else some ([], args)

/-- R60: the count `n`, which has no value to be left out for. -/
def takeCount (args : List AsmArg) : Option (Nat × List AsmArg) :=
  match args with
  | [] => none
  | (k, v) :: rest => if k = ['n'] then (decimalCount v).map fun n => (n, rest) else none

/-- The three byte strings `entropy`, `nonce` and `pers`, with no argument after them. -/
def takeInputs (args : List AsmArg) : Option (List Byte × List Byte × List Byte) :=
  match takeBytes "entropy".toList args with
  | none => none
  | some (entropy, args1) =>
    match takeBytes "nonce".toList args1 with
    | none => none
    | some (nonce, args2) =>
      match takeBytes "pers".toList args2 with
      | some (pers, []) => some (entropy, nonce, pers)
      | _ => none

/-- R60, R61: what a line says. -/
inductive AsmStatement where
  | command (l : AsmLine)
  /-- R61: `RESET`. -/
  | reset
  /-- R61: `CONSTRUCT`. -/
  | construct (entropy nonce pers : List Byte)
deriving DecidableEq, Repr

/-- R60: `RESEED entropy=, add=`. -/
def readReseed (args : List AsmArg) : Option AsmStatement :=
  match takeBytes "entropy".toList args with
  | none => none
  | some (entropy, args1) =>
    match takeBytes "add".toList args1 with
    | some (add, []) => some (.command (.reseed entropy add))
    | _ => none

/-- R60: `GENERATE n=, add=`. -/
def readGenerate (args : List AsmArg) : Option AsmStatement :=
  match takeCount args with
  | none => none
  | some (n, args1) =>
    match takeBytes "add".toList args1 with
    | some (add, []) => some (.command (.generate n add))
    | _ => none

/-- R60, R61: the statement a line of text stands for, if it is one. -/
def readLine (text : List Char) : Option AsmStatement :=
  let name := text.takeWhile (· ≠ ' ')
  let args := asmArgs (text.dropWhile (· ≠ ' '))
  if name = "INSTANTIATE".toList then (takeInputs args).map fun r => .command (.instantiate r.1 r.2.1 r.2.2)
  else if name = "RESEED".toList then readReseed args
  else if name = "GENERATE".toList then readGenerate args
  else if name = "RESET".toList then if args = [] then some .reset else none
  else if name = "CONSTRUCT".toList then (takeInputs args).map fun r => .construct r.1 r.2.1 r.2.2
  else none

/-- R60, R61, R117: the host carries out a statement. -/
def AsmStatement.carryOut (a : AsmStatement) (s : State) : State :=
  match a with
  | .command l => issue l s
  | .reset => pseudoReset s
  | .construct entropy nonce pers => Sys2Proof.Machine.construct entropy nonce pers s

/-- R57: the name of a status. -/
def Status.name : Status → List Char
  | .ok => "OK".toList
  | .error .insufficientEntropy => "InsufficientEntropy".toList
  | .error .requestTooLarge => "RequestTooLarge".toList
  | .error .reseedRequired => "ReseedRequired".toList
  | .error .oversizedInput => "OversizedInput".toList
  | .error .illegalCommand => "IllegalCommand".toList

/-- A hexadecimal digit's character. -/
def hexChar (n : Nat) : Char := if n < 10 then Char.ofNat (48 + n) else Char.ofNat (87 + n)

/-- R60: a byte string as text. -/
def byteText (bs : List Byte) : List Char :=
  'x' :: quoteMark :: bs.flatMap (fun b => [hexChar (b.toNat / 16), hexChar (b.toNat % 16)]) ++ [quoteMark]

/-- R60: how a command's result is written: its status and, for GENERATE, the bytes delivered. -/
def resultText (i : Instr) (st : Status) (output : List Byte) : List (List Char) :=
  match i with
  | .instantiate _ _ _ => ["-> ".toList ++ st.name]
  | .reseed _ _ => ["-> ".toList ++ st.name]
  | .generate _ _ => ["-> ".toList ++ st.name, "out=".toList ++ byteText output]

end Sys2Proof.Machine
end

