-- ==== Sys2Proof/Tests/Slice0.lean ====
section
/-! SUPPORT. Tests: expected values are those of spec/95_test_vectors.md, named by their ids, or written out from the rule
named. Then one witness for each obligation that has hypotheses. -/

namespace Sys2Proof.Tests

open Sys2Proof Sys2Proof.Machine

/-- Bytes from their numbers. -/
def bytes (l : List Nat) : List Byte := l.map (BitVec.ofNat 8)

/-- The named inputs of 95_test_vectors.md. -/
def inE : List Byte := beBytes 16 0x000102030405060708090a0b0c0d0e0f
def inN : List Byte := beBytes 8 0x2021222324252627
def inA : List Byte := beBytes 4 0xa0a1a2a3
def inE2 : List Byte := beBytes 16 0x808182838485868788898a8b8c8d8e8f

/-- INS-1: the registers. -/
def v1 : SeedVal :=
  0xe4c7246cc41cd020f49888fde8e60178a1c6d4ac8bc35e5495e3095f206458b2d459e146a0cb10125469c3f7b45f29539e41e72d446002
def c1 : SeedVal :=
  0x7115b8db2b0b6fc3aad9262b0c2902ec53b4e3a61124644842656628582c61867b1e6ce69f1c80df3f3339d159142b7885a52015767d0b

/-- The state of INS-1, with `input` on data-in. -/
def ins1 (input : List Byte) : State :=
  { State.reset with V := v1, C := c1, RC := 1, INST := true, dataIn := input }

/-- The reset state with `input` on data-in. -/
def blank (input : List Byte) : State := { State.reset with dataIn := input }

/-- A build with `MAX_INPUT_BYTES = 32` and `RESEED_INTERVAL = 1`. -/
def smallCfg : Config := ⟨1, 32⟩

/-- The state a command leads to. -/
def run (i : Instr) (s : State) : State :=
  match exec i s with
  | .next t => t
  | .fault _ => s
  | .refused _ => s

/-! ### Well-formedness: for each field a count that does not fit -/

theorem test_wf_instantiate : (Instr.instantiate 16 8 0).WellFormed := by decide
theorem test_wf_greatest_counts : (Instr.generate (2 ^ 32 - 1) (2 ^ 32 - 1)).WellFormed := by decide
theorem test_ill_formed_instantiate_entropy : ¬ (Instr.instantiate (2 ^ 32) 0 0).WellFormed := by decide
theorem test_ill_formed_instantiate_nonce : ¬ (Instr.instantiate 16 (2 ^ 32) 0).WellFormed := by decide
theorem test_ill_formed_instantiate_pers : ¬ (Instr.instantiate 16 0 (2 ^ 32)).WellFormed := by decide
theorem test_ill_formed_reseed_entropy : ¬ (Instr.reseed (2 ^ 32) 0).WellFormed := by decide
theorem test_ill_formed_reseed_add : ¬ (Instr.reseed 16 (2 ^ 32)).WellFormed := by decide
theorem test_ill_formed_generate_add : ¬ (Instr.generate (2 ^ 32) 0).WellFormed := by decide
theorem test_ill_formed_generate_n : ¬ (Instr.generate 0 (2 ^ 32)).WellFormed := by decide

/-! ### Encoding -/

/-- DEC-2. -/
theorem test_decode_instantiate :
    decode 0x00000008000000100000002000000001#128 = .command (.instantiate 32 16 8) := by decide

/-- DEC-3. -/
theorem test_decode_reseed : decode 0x00000000000000040000001000000002#128 = .command (.reseed 16 4) := by decide

/-- DEC-5. -/
theorem test_decode_generate : decode 0x00000000000000280000000400000003#128 = .command (.generate 4 40) := by decide

/-- R50, R51 bit by bit: LEN2 in bits 127:96, LEN1 in 95:64, LEN0 in 63:32, RSV in 31:4, OP in 3:0. -/
theorem test_decode_fields :
    decode ((0b00000000000000000000000000001000#32 ++ 0b00000000000000000000000000010000#32) ++
        (0b00000000000000000000000000100000#32 ++ (0b0000000000000000000000000000#28 ++ 0b0001#4))) =
      .command (.instantiate 32 16 8) := by decide

/-- DEC-6 to DEC-11, DEC-13. -/
theorem test_decode_illegal :
    decode 0x00000000000000000000000000000000#128 = .illegal .reservedOp ∧
    decode 0x00000000000000000000000000000004#128 = .illegal .reservedOp ∧
    decode 0x0000000000000000000000000000000f#128 = .illegal .reservedOp ∧
    decode 0x00000000000000000000001000000011#128 = .illegal .reservedBits ∧
    decode 0x00000001000000000000001000000002#128 = .illegal .len2NotZero ∧
    decode 0xffffffff000000200000000000000003#128 = .illegal .len2NotZero ∧
    decode 0x80000000000000000000000080000001#128 = .illegal .reservedBits := by decide

/-- R54: `legalDescriptor` agrees on DEC-1, DEC-12, DEC-10, DEC-13. -/
theorem test_legal_descriptor :
    legalDescriptor 0x00000000000000080000001000000001#128 = true ∧
    legalDescriptor 0x00000000000100010000000000000003#128 = true ∧
    legalDescriptor 0x00000001000000000000001000000002#128 = false ∧
    legalDescriptor 0x80000000000000000000000080000001#128 = false := by decide

/-- DEC-2, DEC-3, DEC-5 the other way. -/
theorem test_encode :
    encode (.instantiate 32 16 8) = 0x00000008000000100000002000000001 ∧
    encode (.reseed 16 4) = 0x00000000000000040000001000000002 ∧
    encode (.generate 4 40) = 0x00000000000000280000000400000003 := by decide

/-- The opcode table's own words; a word cut at 32 bits has zero counts. -/
theorem test_decode_table_word :
    decodeTableWord 128 0x1 = some (.instantiate 0 0 0) ∧ decodeTableWord 128 0x2 = some (.reseed 0 0) ∧
    decodeTableWord 128 0x3 = some (.generate 0 0) ∧ decodeTableWord 32 0x1 = some (.instantiate 0 0 0) ∧
    decodeTableWord 128 0x4 = none := by decide

/-- R60: a line's descriptor and payload, as in program P1, command 3. -/
theorem test_assemble :
    (AsmLine.generate 40 inA).descriptor = 0x00000000000000280000000400000003 ∧
    (AsmLine.generate 40 inA).payload = bytes [0xa0, 0xa1, 0xa2, 0xa3] := by decide

/-- Program P1, command 3, and P2, command 0, from their text. -/
theorem test_read_line :
    readLine "GENERATE n=40, add=x\"a0a1a2a3\"".toList = some (.command (.generate 40 inA)) ∧
    readLine "RESEED      entropy=x\"808182838485868788898a8b8c8d8e8f\"".toList = some (.command (.reseed inE2 [])) ∧
    readLine "RESET".toList = some .reset ∧ readLine "GENERATE add=x\"00\"".toList = none ∧
    readLine "RESEED entropy=x\"000\"".toList = none := by decide +kernel

/-- R60: a result. -/
theorem test_result_text :
    resultText (.generate 0 2) .ok [0xa6, 0x02] = ["-> OK".toList, "out=x\"a602\"".toList] := by decide +kernel

/-! ### Codes -/

/-- R57. -/
theorem test_status_codes :
    Status.ok.code = 0 ∧ (Status.error .insufficientEntropy).code = 1 ∧ (Status.error .requestTooLarge).code = 2 ∧
    (Status.error .reseedRequired).code = 3 ∧ (Status.error .oversizedInput).code = 4 ∧
    (Status.error .illegalCommand).code = 5 := by decide

/-- R27. -/
theorem test_fsm_codes :
    [Fsm.idle, .check, .absorb, .deriveV, .deriveC, .genW, .genOut, .genH, .commit, .respond].map Fsm.code =
      [0, 1, 2, 3, 4, 5, 6, 7, 8, 9] := by decide

/-! ### Arithmetic and comparators -/

/-- ADD-2: all ones and the digest of "abc". -/
theorem test_add_wraps :
    addMod [List.replicate 55 0xff,
        beBytes 32 0xba7816bf8f01cfea414140de5dae2223b00361a396177a9cb410ff61f20015ad] =
      0xba7816bf8f01cfea414140de5dae2223b00361a396177a9cb410ff61f20015ac := by decide +kernel

/-- ADD-3: four addends in one chain, by the carry chain. -/
theorem test_carry_chain :
    carryChainSum [List.replicate 55 0xff, List.replicate 32 0xff, List.replicate 55 0xff, List.replicate 8 0xff] =
      beBytes 55 0x1000000000000000000000000000000000000000000000000fffffffffffffffc := by decide +kernel

/-- INC-1, INC-2. -/
theorem test_increment : inc 0xff = 0x100 ∧ inc (BitVec.allOnes 440) = 0 := by decide +kernel

/-- CMP-1 to CMP-4. -/
theorem test_reseed_comparator :
    reseedRequired Config.default false 0 = true ∧ reseedRequired Config.default true 0x1000000000000 = false ∧
    reseedRequired Config.default true 0x1000000000001 = true ∧
    reseedRequired ⟨0xffffffffffffffff, 32⟩ true 0xffffffffffffffff = false := by decide

/-- CMP-5 to CMP-7. -/
theorem test_length_comparators :
    insufficient 15 = true ∧ insufficient 16 = false ∧ insufficient 0 = true ∧ tooLarge 0 = false ∧
    tooLarge 65536 = false ∧ tooLarge 65537 = true ∧ oversized smallCfg 32 = false ∧ oversized smallCfg 33 = true := by
  decide

/-! ### SHA-256 and Hash_df -/

/-- The primes below `n`, in order. -/
def primesBelow (n : Nat) : List Nat :=
  (List.range n).filter fun p => 2 ≤ p && (List.range p).all fun d => d < 2 || p % d != 0

/-- FIPS 180-4's own description of the constants: with some integer part `c`, the word is the first 32 bits of the fraction
of the `e`-th root of `p`. -/
def isRootFraction (e p : Nat) (w : BitVec 32) : Bool :=
  (List.range 20).any fun c =>
    (2 ^ 32 * c + w.toNat) ^ e ≤ 2 ^ (32 * e) * p && 2 ^ (32 * e) * p < (2 ^ 32 * c + w.toNat + 1) ^ e

/-- The 64 round constants are the cube roots of the first 64 primes. -/
theorem test_sha_round_constants :
    (primesBelow 312).length = 64 ∧ shaRoundConstants.length = 64 ∧
    ((primesBelow 312).zip shaRoundConstants).all (fun pw => isRootFraction 3 pw.1 pw.2) = true := by decide +kernel

/-- The initial chaining value is the square roots of the first 8 primes. -/
theorem test_sha_initial_value :
    let v := shaInitial
    ((primesBelow 20).zip [v.a, v.b, v.c, v.d, v.e, v.f, v.g, v.h]).map (fun pw => isRootFraction 2 pw.1 pw.2) =
      List.replicate 8 true := by decide +kernel

/-- SRC-1. -/
theorem test_sha256_empty :
    SHA256 [] = 0xe3b0c44298fc1c149afbf4c8996fb92427ae41e4649b934ca495991b7852b855 := by decide +kernel

/-- SRC-2. -/
theorem test_sha256_abc :
    SHA256 (bytes [0x61, 0x62, 0x63]) = 0xba7816bf8f01cfea414140de5dae2223b00361a396177a9cb410ff61f20015ad := by
  decide +kernel

/-- HDF-1. -/
theorem test_hash_df_55 :
    hashDf55 inE =
      0x72aec9a62ea8f53243c4e2e5168b54ad010a11bcfc5e651ed7e767327715d48efdcfa8ca9fb3b54e2e63c981ce1fbc7d6391991cfa0d9e := by
  decide +kernel

/-- HDF-2, HDF-3. -/
theorem test_hash_df_short :
    (hashDf inE [] [] [] 0).toOption = some [] ∧ (hashDf inE [] [] [] 1).toOption = some [0xfa] := by decide +kernel

/-- HDF-7: three iterations, the last one cut to one byte. -/
theorem test_hash_df_three_turns :
    (hashDf inE [] [] [] 65).toOption.map (fun out => (out.take 2, out.drop 63)) =
      some ([0x5f, 0xc1], [0x64, 0x77]) := by decide +kernel

/-! ### INSTANTIATE -/

/-- INS-1, from the reset state. -/
theorem test_instantiate :
    let t := run (.instantiate 16 8 0) (blank (inE ++ inN))
    t.V = v1 ∧ t.C = c1 ∧ t.RC = 1 ∧ t.INST = true ∧ t.responses = [.ok] ∧ t.hashPort.length = 4 := by
  decide +kernel

/-- INS-E3: the entropy is checked before the other lengths. -/
theorem test_instantiate_priority :
    (run (.instantiate 15 33 0) { blank [] with cfg := smallCfg }).observe.codes = [1] ∧
    (run (.instantiate 16 33 0) { blank [] with cfg := smallCfg }).observe.codes = [4] := by decide +kernel

/-! ### RESEED -/

/-- RES-2, from INS-1. -/
theorem test_reseed :
    let t := run (.reseed 16 4) (ins1 (inE2 ++ inA))
    t.V = 0xc1d07cff22e95d50197dd2814149342226131c3a4440ff4b2cc8e8000ecec69303e0ef7ea3a51b470335d826ab4568f4a3098c6d53506d ∧
    t.C = 0xe13bd9e34d3274350e61cbe5b335f5aeb0bfee81a885dfef44664a12f287ea11507f045c39ea46c13abfa4b7d3e91a166145110e8ab81d ∧
    t.RC = 1 ∧ t.INST = true := by
  decide +kernel

/-- RES-3, from the reset state. -/
theorem test_reseed_uninstantiated :
    let t := run (.reseed 16 0) (blank inE)
    t.V = 0xe8ad9beb39248d53ea7f202691202aa9d2a2fa2599ca72cff426600ec9ca5a868ad936fef88634b47929ba5209aa7695e92bb3f9d7dd00 ∧
    t.RC = 1 ∧ t.INST = true := by
  decide +kernel

/-! ### GENERATE -/

/-- GEN-3: two blocks, the second cut to one byte. -/
theorem test_generate :
    let t := run (.generate 0 33) (ins1 [])
    t.dataOut = beBytes 33 0xa6022d59e8a0afa16bda14eefe2870bba49cd424fde7be86c08dbd85bfb1dc609d ∧
    t.V = 0x55dcdd47ef283fe49f71af28f50f0464f57bb8529ce7c2f7f6a36bc2e9524be9e54f3376cade03c4c2e2994c21e90f4c794742999839db ∧
    t.C = c1 ∧ t.RC = 2 ∧ t.hashPort.length = 3 := by
  decide +kernel

/-- GEN-6: with additional input. -/
theorem test_generate_additional :
    let t := run (.generate 4 32) (ins1 inA)
    t.dataOut = beBytes 32 0x3f0c062414332b2cc2319893f2f727ec7010a9bf01d067ad1c2de59240234e29 ∧
    t.V = 0x55dcdd47ef283fe49f71af28f50f0464f57bb8529ce7c38e5cf2e5e04ade661d8be69d68af7c46ae46418029f75521235c4c41b9d238ab ∧
    t.dataIn = [] ∧ t.hashPort.length = 3 := by
  decide +kernel

/-- RC-1: the counter wraps. -/
theorem test_counter_wraps :
    (commit (.advance 0) { State.reset with RC := 0xffffffffffffffff }).RC = 0 := by decide

/-! ### Steps -/

/-- The first word of the table runs as the first instruction after reset (its entropy is too short: R86). -/
theorem test_with_fetch_word :
    advance (State.reset.withFetchWord 128 0x1) = run (.instantiate 0 0 0) State.reset ∧
    (run (.instantiate 0 0 0) State.reset).observe.codes = [1] := by decide +kernel

/-- R54: an illegal descriptor, GENERATE with LEN2 = 1. -/
theorem test_illegal_step :
    (advance { ins1 [] with cmdIn := [0x00000001000000200000000000000003] }).responses = [.error .illegalCommand] := by
  decide +kernel

/-- R124: the step at reset. -/
theorem test_reset_step : advance { ins1 [] with rst := true } = { blank [] with rst := true } := by decide +kernel

/-- R27: ten transitions of an empty GENERATE: check, absorb, genOut, genH, commit, respond, idle. -/
theorem test_ticks_of_generate :
    [1, 2, 3, 4, 5, 6, 7].map (fun k => (ticks k { ins1 [] with cmdIn := [0x3] }).phase.fsm) =
      [.check, .absorb, .genOut, .genH, .commit, .respond, .idle] := by decide +kernel

/-- R61: RESET. -/
theorem test_pseudo_reset : pseudoReset (ins1 []) = blank [] := by decide +kernel

/-! ### Witnesses: for each obligation with hypotheses, a state and operands that meet them all -/

/-- A command word presented in the reset state. -/
def presented (d : Descriptor) : State := { blank [] with cmdIn := [d] }

/-- At the boundary of every count. -/
theorem witness_DecodeEncodeRoundTrip :
    (Instr.instantiate (2 ^ 32 - 1) 0 (2 ^ 32 - 1)).WellFormed ∧ (Instr.reseed 0 (2 ^ 32 - 1)).WellFormed ∧
    (Instr.generate (2 ^ 32 - 1) 0).WellFormed := by decide

theorem witness_EncodeDecodeRoundTrip :
    decode 0xffffffffffffffffffffffff00000001#128 =
      .command (.instantiate 4294967295 4294967295 4294967295) ∧
    decode 0x00000000ffffffff0000000000000003#128 = .command (.generate 0 4294967295) := by decide

/-- The state hypotheses, then a legal and an illegal descriptor, at the edges of the clause. -/
theorem witness_IllegalDescriptorsRejected :
    ((presented 3).phase = .idle ∧ (presented 3).rst = false ∧ (presented 3).rspReady = true ∧
      (presented 3).cmdIn = [3]) ∧
    ((3#128).extractLsb' 4 28 = 0 ∧ (3#128).extractLsb' 0 4 = 3 ∧ (3#128).extractLsb' 96 32 = 0) ∧
    ((0xffffffff000000000000000000000001#128).extractLsb' 4 28 = 0 ∧
      (0xffffffff000000000000000000000001#128).extractLsb' 0 4 = 1) ∧
    (0x00000001000000000000000000000002#128).extractLsb' 96 32 ≠ 0 ∧
    (0x00000000000000000000000080000001#128).extractLsb' 4 28 ≠ 0 ∧
    (4#128).extractLsb' 0 4 = 4 := by decide

theorem witness_StepRunsDecodedCommand :
    (presented 3).phase = .idle ∧ (presented 3).rst = false ∧ (presented 3).cmdIn = [3] ∧
      decode 3 = .command (.generate 0 0) := by decide

theorem witness_StepWaitsWithoutCommand :
    State.reset.phase = .idle ∧ State.reset.rst = false ∧ State.reset.cmdIn = [] := by decide

/-- Reset asserted in the middle of a GENERATE. -/
theorem witness_ResetEdgeAbandonsCommand :
    ({ ins1 [] with rst := true, phase := .genOut v1 v1 [0xa6] 4 } : State).rst = true := by decide

theorem witness_InstantiateResult :
    InstantiateAccepted (blank inE) inE.length ([] : List Byte).length ([] : List Byte).length ∧
    (blank inE).dataIn = inE ++ [] ++ [] ++ [] ∧ (blank inE).engineAnswers = true ∧ (blank inE).rspReady = true := by
  decide

theorem witness_ReseedResult :
    ReseedAccepted (ins1 (inE2 ++ inA ++ [7])) inE2.length inA.length ∧
    (ins1 (inE2 ++ inA ++ [7])).dataIn = inE2 ++ inA ++ [7] ∧ (ins1 []).engineAnswers = true ∧
    (ins1 []).rspReady = true := by decide

/-- The counter at the interval, the request at its greatest. -/
theorem witness_GenerateResult :
    GenerateAccepted { ins1 inA with cfg := smallCfg } inA.length 65536 ∧
    ({ ins1 inA with cfg := smallCfg } : State).dataIn = inA ++ [] ∧ Attended { ins1 inA with cfg := smallCfg } := by
  decide

theorem witness_InstantiateForgetsOldState :
    InstantiateAccepted (ins1 (inE ++ inN)) 16 8 0 ∧ 16 + 8 + 0 ≤ (ins1 (inE ++ inN)).dataIn.length ∧
    (ins1 (inE ++ inN)).engineAnswers = true ∧ (ins1 (inE ++ inN)).rspReady = true := by decide

theorem witness_InstantiateSplitInvariant :
    InstantiateAccepted (blank (inE ++ inN)) (inE ++ inN).length 0 0 ∧
    InstantiateAccepted (blank (inE ++ inN)) inE.length inN.length 0 ∧
    (blank (inE ++ inN)).dataIn = inE ++ inN ++ [] ∧ (blank (inE ++ inN)).engineAnswers = true ∧
    (blank (inE ++ inN)).rspReady = true := by decide

theorem witness_ReseedFromUninstantiated :
    (blank inE).INST = false ∧ (blank inE).V = 0 ∧
    ReseedAccepted (blank inE) inE.length ([] : List Byte).length ∧ (blank inE).dataIn = inE ++ [] ++ [] ∧
    (blank inE).engineAnswers = true ∧ (blank inE).rspReady = true := by decide

/-- The least interval of all builds. -/
theorem witness_ReseedIgnoresCounter :
    smallCfg.Legal ∧ ReseedAccepted { ins1 inE with cfg := smallCfg } 16 0 ∧ 16 + 0 ≤ (ins1 inE).dataIn.length ∧
    (ins1 inE).engineAnswers = true ∧ (ins1 inE).rspReady = true := by decide

theorem witness_GenerateOutputPrefix :
    0 ≤ 65536 ∧ GenerateAccepted (ins1 inA) 4 65536 ∧ 4 ≤ (ins1 inA).dataIn.length ∧ Attended (ins1 inA) := by decide

/-- The accepted clause, with and without additional input; the rejected one, uninstantiated and with the counter one
past the interval. -/
theorem witness_GenerateZeroRequest :
    (ins1 inA).rspReady = true ∧
    (GenerateAccepted (ins1 inA) inA.length 0 ∧ (ins1 inA).dataIn = inA ++ [] ∧ (ins1 inA).engineAnswers = true) ∧
    (GenerateAccepted (ins1 inA) ([] : List Byte).length 0 ∧ (ins1 inA).dataIn = [] ++ inA) ∧
    (blank []).INST = false ∧
    ({ ins1 [] with RC := 2, cfg := smallCfg } : State).cfg.reseedInterval.toNat <
      ({ ins1 [] with RC := 2, cfg := smallCfg } : State).RC.toNat := by decide

theorem witness_HashRequestCounts :
    Attended (ins1 inE) ∧ (InstantiateAccepted (ins1 inE) 16 0 0 ∧ 16 + 0 + 0 ≤ (ins1 inE).dataIn.length) ∧
    (ReseedAccepted (ins1 inE) 16 0 ∧ 16 + 0 ≤ (ins1 inE).dataIn.length) ∧
    (GenerateAccepted (ins1 inE) 16 65536 ∧ 16 ≤ (ins1 inE).dataIn.length) ∧
    precondition (.instantiate 15 0 0) (ins1 inE) = some .insufficientEntropy := by decide

/-- Each error a check can give, the response taken and not taken. -/
theorem witness_RejectionChangesNothing :
    precondition (.instantiate 15 33 0) { blank [] with cfg := smallCfg } = some .insufficientEntropy ∧
    precondition (.reseed 16 33) { blank [] with cfg := smallCfg } = some .oversizedInput ∧
    precondition (.generate 0 65537) (ins1 []) = some .requestTooLarge ∧
    precondition (.generate 0 70000) (blank []) = some .reseedRequired ∧
    (blank []).rspReady = true ∧ ({ blank [] with rspReady := false } : State).rspReady = false ∧
    ((presented 4).phase = .idle ∧ (presented 4).rst = false ∧ (presented 4).cmdIn = [4] ∧
      decode 4 = .illegal .reservedOp) := by decide

/-- Every clause at the value where it meets the next one. -/
theorem witness_ErrorPriority :
    ((presented 4).rspReady = true ∧ (presented 4).phase = .idle ∧ (presented 4).rst = false ∧
      (presented 4).cmdIn = [4] ∧ decode 4 = .illegal .reservedOp) ∧
    15 < 16 ∧ (16 ≤ 16 ∧ ({ blank [] with cfg := smallCfg } : State).cfg.maxInputBytes.toNat < 33) ∧
    ((blank []).INST = false ∨ (blank []).cfg.reseedInterval.toNat < (blank []).RC.toNat) ∧
    ((ins1 []).INST = true ∧ (ins1 []).RC.toNat ≤ (ins1 []).cfg.reseedInterval.toNat ∧ 65536 < 65537 ∧
      65536 ≤ 65536) := by decide

/-- The hypotheses, and an instruction on each side of the equivalence. -/
theorem witness_InsufficientEntropyExactly :
    (blank []).rspReady = true ∧ (∃ t, exec (.reseed 15 0) (blank []) = .next t) ∧
    (∃ t, exec (.reseed 16 0) (blank []) = .next t) := ⟨rfl, ⟨_, exec_eq _ _⟩, _, exec_eq _ _⟩

theorem witness_RequestTooLargeExactly :
    (ins1 []).rspReady = true ∧ (∃ t, exec (.generate 0 65537) (ins1 []) = .next t) ∧
    (∃ t, exec (.generate 0 65536) (ins1 []) = .next t) := ⟨rfl, ⟨_, exec_eq _ _⟩, _, exec_eq _ _⟩

theorem witness_ReseedRequiredExactly :
    (blank []).rspReady = true ∧ (∃ t, exec (.generate 0 0) (blank []) = .next t) ∧
    (∃ t, exec (.generate 0 0) (ins1 []) = .next t) := ⟨rfl, ⟨_, exec_eq _ _⟩, _, exec_eq _ _⟩

/-- The default build too, for the last clause. -/
theorem witness_OversizedInputExactly :
    (blank []).rspReady = true ∧ (∃ t, exec (.reseed 16 33) { blank [] with cfg := smallCfg } = .next t) ∧
    (∃ t, exec (.reseed 16 32) (blank []) = .next t) ∧ (Instr.reseed 16 32).WellFormed ∧
    (blank []).cfg.maxInputBytes = 0xffffffff#32 :=
  ⟨rfl, ⟨_, exec_eq _ _⟩, ⟨_, exec_eq _ _⟩, by decide, rfl⟩

/-- One byte short. -/
theorem witness_PayloadShortfallWaits :
    precondition (.reseed 16 5) (ins1 (inE2 ++ inA)) = none ∧
    (ins1 (inE2 ++ inA)).dataIn.length < payloadLen (.reseed 16 5) ∧ (ins1 []).rst = false := by decide

theorem witness_ShortfallThenMoreBytes :
    precondition (.reseed 16 4) (ins1 []) = none ∧ (ins1 []).rst = false ∧
    inE2.length < payloadLen (.reseed 16 4) := by decide

theorem witness_OutputBackPressureWaits :
    let s : State := { ins1 inA with outReady := false }
    GenerateAccepted s 4 1 ∧ 0 < 1 ∧ 4 ≤ s.dataIn.length ∧ s.engineAnswers = true ∧ s.outReady = false ∧
      s.rst = false := by decide

/-- Every kind of command, and GENERATE waiting in each of its three control states. -/
theorem witness_SilentEngineWaits :
    let s : State := { ins1 inE with engineAnswers := false }
    (∀ i ∈ [Instr.instantiate 16 0 0, .reseed 16 0, .generate 4 0, .generate 0 1, .generate 0 0],
      precondition i s = none ∧ payloadLen i ≤ s.dataIn.length) ∧
    s.engineAnswers = false ∧ s.rst = false := by decide

/-- A rejected GENERATE, whose response waits and is taken. -/
theorem witness_UntakenResponseWaits :
    ∃ t u : State, exec (.generate 0 0) { blank [] with rspReady := false } = .next t ∧
      exec (.generate 0 0) { blank [] with rspReady := true } = .next u ∧ u.phase = .idle ∧ (blank []).rst = false :=
  ⟨_, _, exec_eq _ _, exec_eq _ _, by decide, rfl⟩

/-- The same of a GENERATE that commits. -/
theorem witness_UntakenResponseWaits_commit :
    ∃ t u : State, exec (.generate 0 0) { ins1 [] with rspReady := false } = .next t ∧
      exec (.generate 0 0) { ins1 [] with rspReady := true } = .next u ∧ u.phase = .idle ∧ (ins1 []).rst = false :=
  ⟨_, _, exec_eq _ _, exec_eq _ _, by decide +kernel, rfl⟩

theorem witness_SeedingCommandsFrame :
    (∃ t, exec (.instantiate 16 0 0) (blank inE) = .next t) ∧ (∃ t, exec (.reseed 16 0) (blank inE) = .next t) :=
  ⟨⟨_, exec_eq _ _⟩, _, exec_eq _ _⟩

/-- With additional input and without. -/
theorem witness_GenerateFrame :
    (∃ t, exec (.generate 4 33) (ins1 inA) = .next t) ∧ (∃ t, exec (.generate 0 0) (ins1 inA) = .next t) :=
  ⟨⟨_, exec_eq _ _⟩, _, exec_eq _ _⟩

theorem witness_BuildParametersFixed : ∃ t, step (presented 3) = .next t := ⟨_, step_eq _⟩

theorem witness_CommitWritesTogether :
    ({ ins1 [] with phase := .commit (.seed v1 c1) } : State).rst = false ∧
    ({ ins1 [] with phase := .commit (.seed v1 c1) } : State).phase = .commit (.seed v1 c1) ∧
    ({ ins1 [] with phase := .commit (.advance v1) } : State).phase = .commit (.advance v1) ∧
    ({ ins1 [] with phase := .genH v1 } : State).phase.fsm ≠ .commit := by decide

/-- At the wrap. -/
theorem witness_ReseedCounterWrites :
    ({ ins1 [] with rst := true } : State).rst = true ∧ (ins1 []).rst = false ∧
    ({ ins1 [] with phase := .commit (.seed v1 c1) } : State).phase = .commit (.seed v1 c1) ∧
    ({ ins1 [] with RC := BitVec.allOnes 64, phase := .commit (.advance v1) } : State).phase = .commit (.advance v1) ∧
    ({ ins1 [] with phase := .genH v1 } : State).phase.fsm ≠ .commit := by decide

theorem witness_StatusOutputsFollowCommands :
    (presented 3).rst = false ∧ (presented 3).phase.fsm ≠ .commit ∧
    ({ ins1 [] with phase := .respond .ok } : State).phase.fsm = .respond := by decide

theorem witness_InstantiatedUntilReset :
    (ins1 []).INST = true ∧ (ins1 []).rst = false ∧ ∃ t, step (ins1 []) = .next t := ⟨rfl, rfl, _, step_eq _⟩

theorem witness_AcceptanceOnlyInIdle :
    (presented 3).cmdReady = true ∧ ({ presented 3 with rst := true } : State).cmdReady = false ∧
    ({ presented 3 with phase := .check 3 } : State).cmdReady = false ∧ ∃ t, step (presented 3) = .next t :=
  ⟨rfl, rfl, rfl, _, step_eq _⟩

theorem witness_OneResponsePerCommand :
    (presented 3).cmdReady = true ∧ (presented 3).cmdIn ≠ [] ∧ ∃ t, step (presented 3) = .next t :=
  ⟨rfl, by decide, _, step_eq _⟩

theorem witness_SequencerOrder :
    ({ blank [] with phase := .respond .ok } : State).rst = false ∧ (presented 3).rst = false ∧
    ({ blank [] with phase := .check 3 } : State).phase.fsm = .check ∧ (presented 3).phase.fsm = .idle := by decide

theorem witness_StepIsRunOfTicks : ∃ t, step (presented 3) = .next t := ⟨_, step_eq _⟩

/-- A GENERATE whose host has not taken its byte. -/
theorem witness_OutcomeIndependentOfPacing :
    let s : State := { ins1 [] with outReady := false, phase := .genOut v1 v1 [0xa6] 4 }
    s.rst = false ∧ s.phase ≠ .idle := by decide

/-- The invariant's own clauses: the reset state, and an instantiated one with the counter one past the interval. -/
theorem witness_inv_reset : Sys2Proof.Inv State.reset where
  uninstantiated _ := ⟨rfl, rfl, rfl⟩
  counterPositive h := absurd h (by decide)
  counterBound := by decide
  constantDerived h := absurd h (by decide)
  phaseSound := trivial

theorem witness_inv_exhausted (w : SeedVal) :
    Sys2Proof.Inv { ins1 [] with C := hashDf55 (constantSeed w), RC := 2, cfg := smallCfg } where
  uninstantiated h := absurd h (by simp [ins1])
  counterPositive _ _ := show 1 ≤ 2 by decide
  counterBound := show 2 ≤ 1 + 1 by decide
  constantDerived _ := ⟨w, rfl⟩
  phaseSound := trivial

theorem witness_StepKeepsInvariant : Sys2Proof.Inv State.reset ∧ ∃ t, step State.reset = .next t :=
  ⟨witness_inv_reset, _, step_eq _⟩

theorem witness_TickKeepsInvariant : Sys2Proof.Inv State.reset := witness_inv_reset

theorem witness_HostEventsKeepInvariant : Sys2Proof.Inv State.reset := witness_inv_reset

theorem witness_ReachableStatesSound : Reachable (presented 3) ∧ ∃ t, step (presented 3) = .next t :=
  ⟨⟨Config.default, by decide, [.host (.present 3)], rfl⟩, _, step_eq _⟩

theorem witness_EngineResidueIrrelevant : ∃ t, step (presented 3) = .next t := ⟨_, step_eq _⟩

theorem witness_EarlierTransfersIrrelevant : ∃ t, step (presented 3) = .next t := ⟨_, step_eq _⟩

theorem witness_ModularSum : ∀ a ∈ [List.replicate 55 (0xff : Byte), [1]], a.length ≤ 55 := by decide

/-- Four addends, the greatest number a command sums. -/
theorem witness_CarryChainSum :
    (∀ a ∈ [List.replicate 55 (0xff : Byte), List.replicate 32 0xff, List.replicate 55 0xff, []], a.length ≤ 55) ∧
    [List.replicate 55 (0xff : Byte), List.replicate 32 0xff, List.replicate 55 0xff, []].length ≤ 4 := by decide

theorem witness_CounterAddendPlace : 0 < 8 ∧ 7 < 8 := by decide

theorem witness_DigestByteOrder : 0 < 32 ∧ 31 < 32 := by decide

theorem witness_HashDfLength : 0 ≤ 8160 ∧ 8160 ≤ 8160 ∧ 8160 < 8161 := by decide

/-- The clauses: no entropy; 1 and 15 bytes of it; 16 bytes with a nonce one byte above a limit of 32; 16 bytes with a nonce
of exactly 32. -/
theorem witness_ConstructResult :
    let small : State := { blank [] with cfg := smallCfg }
    (Attended small ∧ small.cmdIn = [] ∧ small.dataIn = []) ∧
    (0 < [7#8].length ∧ [7#8].length < 16 ∧ inN.length < 2 ^ 32 ∧ ([] : List Byte).length < 2 ^ 32) ∧
    (0 < (inE.take 15).length ∧ (inE.take 15).length < 16) ∧
    (16 ≤ inE.length ∧ inE.length < 2 ^ 32 ∧ (List.replicate 33 (0 : Byte)).length < 2 ^ 32 ∧
      small.cfg.maxInputBytes.toNat < (List.replicate 33 (0 : Byte)).length) ∧
    InstantiateAccepted small inE.length (List.replicate 32 (0 : Byte)).length 0 := by decide

end Sys2Proof.Tests
end

section
/-! SUPPORT. The records of what was transferred (log entry 8) are only ever extended at their end: every operation
commutes with putting more in front of them. -/

namespace Sys2Proof.Machine

/-- R37: what the observer's records may hold: output bytes, responses, messages of hash requests. -/
structure Transfers where
  out : List Byte
  rsp : List Status
  req : List (List Byte)

/-- The same state with more behind it in the records. -/
def State.after (e : Transfers) (s : State) : State :=
  { s with dataOut := e.out ++ s.dataOut, responses := e.rsp ++ s.responses, hashPort := e.req ++ s.hashPort }

section
variable (e : Transfers) (s : State)

@[simp] theorem after_V : (s.after e).V = s.V := rfl
@[simp] theorem after_C : (s.after e).C = s.C := rfl
@[simp] theorem after_RC : (s.after e).RC = s.RC := rfl
@[simp] theorem after_INST : (s.after e).INST = s.INST := rfl
@[simp] theorem after_phase : (s.after e).phase = s.phase := rfl
@[simp] theorem after_cfg : (s.after e).cfg = s.cfg := rfl
@[simp] theorem after_cmdIn : (s.after e).cmdIn = s.cmdIn := rfl
@[simp] theorem after_dataIn : (s.after e).dataIn = s.dataIn := rfl
@[simp] theorem after_rst : (s.after e).rst = s.rst := rfl
@[simp] theorem after_outReady : (s.after e).outReady = s.outReady := rfl
@[simp] theorem after_rspReady : (s.after e).rspReady = s.rspReady := rfl
@[simp] theorem after_engineAnswers : (s.after e).engineAnswers = s.engineAnswers := rfl

/-! ### The shared operations -/

@[simp] theorem goto_after (p : Phase) : (s.after e).goto p = (s.goto p).after e := rfl

@[simp] theorem applyReset_after : (s.after e).applyReset = s.applyReset.after e := rfl

@[simp] theorem outBytes_after (bs : List Byte) : outBytes bs (s.after e) = (outBytes bs s).after e := by
  simp [outBytes, State.after]

@[simp] theorem hashed_after (ms : List (List Byte)) : (s.after e).hashed ms = (s.hashed ms).after e := by
  simp [State.hashed, State.after]

@[simp] theorem commit_after (w : Writes) : commit w (s.after e) = (commit w s).after e := by
  cases w <;> rfl

@[simp] theorem respond_after (st : Status) : respond st (s.after e) = (respond st s).after e := by
  rcases respond_cases st s with ⟨hr, h⟩ | ⟨hr, h⟩
  · rw [h, respond_taken _ _ (by simpa using hr)]
    simp [State.after]
  · rw [h, respond_waits _ _ (by simpa using hr)]
    rfl

@[simp] theorem commitAndRespond_after (w : Writes) :
    commitAndRespond w (s.after e) = (commitAndRespond w s).after e := by
  simp [commitAndRespond]

/-- ABSORB commutes when what follows it does. -/
theorem absorb_after (i : Instr) (got : List Byte) (next : List Byte → State → State)
    (hnext : ∀ payload t, next payload (t.after e) = (next payload t).after e) :
    absorb i got (s.after e) next = (absorb i got s next).after e := by
  by_cases h : payloadLen i - got.length ≤ s.dataIn.length
  · rw [absorb_enough _ _ s _ h, absorb_enough _ _ (s.after e) _ h]
    exact hnext _ { s with dataIn := s.dataIn.drop (payloadLen i - got.length) }
  · rw [absorb_waits _ _ s _ (Nat.not_le.mp h), absorb_waits _ _ (s.after e) _ (Nat.not_le.mp h)]
    rfl

/-! ### The control states -/

@[simp] theorem fromDeriveC_after (newV : SeedVal) (df : DfRun) :
    fromDeriveC newV df (s.after e) = (fromDeriveC newV df s).after e := by
  simp only [fromDeriveC, after_engineAnswers, dfRequests_state, dfRequests_fst _ df (s.after e) s]
  split <;> simp

@[simp] theorem fromDeriveV_after (df : DfRun) : fromDeriveV df (s.after e) = (fromDeriveV df s).after e := by
  simp only [fromDeriveV, after_engineAnswers, dfRequests_state, dfRequests_fst _ df (s.after e) s]
  split <;> simp

@[simp] theorem fromGenH_after (vw : SeedVal) : fromGenH vw (s.after e) = (fromGenH vw s).after e := by
  simp only [fromGenH, after_engineAnswers, hashRequest_hashed]
  split <;> simp

@[simp] theorem outputLoop_after (turns : Nat) (temp : SeedVal) (left : Nat) :
    outputLoop turns temp left (s.after e) = (outputLoop turns temp left s).after e := by
  simp [outputLoop_eq, State.hashed, State.after]

@[simp] theorem fromGenOut_after (vw temp : SeedVal) (pending : List Byte) (left : Nat) :
    fromGenOut vw temp pending left (s.after e) = (fromGenOut vw temp pending left s).after e := by
  simp only [fromGenOut, outputBlock_eq, outBytes_after, after_outReady, after_engineAnswers]
  split_ifs <;> simp

@[simp] theorem fromGenW_after (add : List Byte) (n : Nat) :
    fromGenW add n (s.after e) = (fromGenW add n s).after e := by
  simp only [fromGenW, after_engineAnswers, hashRequest_hashed]
  split <;> simp

@[simp] theorem startGenerate_after (add : List Byte) (n : Nat) :
    startGenerate add n (s.after e) = (startGenerate add n s).after e := by
  unfold startGenerate
  split <;> simp

/-! ### The commands and the step -/

theorem resumeAbsorb_after (i : Instr) (got : List Byte) :
    resumeAbsorb i got (s.after e) = (resumeAbsorb i got s).after e := by
  cases i with
  | instantiate entLen nonceLen persLen =>
    simp only [resumeAbsorb, absorbInstantiate]
    exact absorb_after e s _ got _ fun _ t => fromDeriveV_after e t _
  | reseed entLen addLen =>
    simp only [resumeAbsorb, absorbReseed]
    exact absorb_after e s _ got _ fun _ t => fromDeriveV_after e t _
  | generate addLen n =>
    simp only [resumeAbsorb, absorbGenerate]
    exact absorb_after e s _ got _ fun _ t => startGenerate_after e t _ n

theorem execState_after (i : Instr) : execState i (s.after e) = (execState i s).after e := by
  simp only [execState, precondition_congr i (s.after e) s rfl rfl rfl]
  cases precondition i s with
  | some err => exact respond_after e s _
  | none => exact resumeAbsorb_after e s i []

theorem descriptorState_after (d : Descriptor) :
    descriptorState d (s.after e) = (descriptorState d s).after e := by
  unfold descriptorState
  cases decode d with
  | command i => exact execState_after e s i
  | illegal _ => exact respond_after e s _

theorem acceptState_after : acceptState (s.after e) = (acceptState s).after e := by
  unfold acceptState
  rw [after_cmdIn]
  cases s.cmdIn with
  | nil => rfl
  | cons d rest => exact descriptorState_after e { s with cmdIn := rest } d

theorem proceedFrom_after (p : Phase) : proceedFrom p (s.after e) = (proceedFrom p s).after e := by
  cases p with
  | idle => exact acceptState_after e s
  | check d => exact descriptorState_after e s d
  | absorb i got => exact resumeAbsorb_after e s i got
  | _ => simp [proceedFrom]

theorem advance_after : advance (s.after e) = (advance s).after e := by
  simp only [advance_eq, after_rst, after_phase, applyReset_after, proceedFrom_after]
  split <;> rfl

end

/-- A step always answers the state `advance` names. -/
theorem step_eq_advance (s : State) : step s = .next (advance s) := by
  rw [step_eq, advance_eq]

/-- Settles O50: no operation reads the records, so each commutes with putting more in front of them, and so does the
step. -/
theorem earlierTransfersIrrelevant : Obligations.EarlierTransfersIrrelevant := by
  intro s t out rsp req h
  rw [step_eq_advance, Host.Outcome.next.injEq] at h
  subst h
  have hstep := step_eq_advance (s.after ⟨out, rsp, req⟩)
  rw [advance_after] at hstep
  exact hstep

end Sys2Proof.Machine
end

section
/-! SUPPORT. One transition of the sequencer: what it leaves unchanged outside COMMIT, which control states can follow a
control state (R27), and that it keeps the scratch of the running command sound. -/

namespace Sys2Proof.Machine

/-! ### The transition of a given control state -/

/-- R27: the transition made with reset low from control state `p`. -/
def tickFrom (p : Phase) (s : State) : State :=
  match p with
  | .idle => tickIdle s
  | .check d => tickCheck d s
  | .absorb i got => tickAbsorb i got s
  | .deriveV df => tickDeriveV df s
  | .deriveC newV df => tickDeriveC newV df s
  | .genW add n => tickGenW add n s
  | .genOut vw temp pending left => tickGenOut vw temp pending left s
  | .genH vw => tickGenH vw s
  | .commit w => tickCommit w s
  | .respond st => respond st s

theorem tick_of_rst_low {s : State} (h : s.rst = false) : tick s = tickFrom s.phase s := by
  cases hp : s.phase <;> simp [tick, tickFrom, h, hp]

theorem tick_of_rst_high {s : State} (h : s.rst = true) : tick s = s.applyReset := by
  simp [tick, h]

/-- A transition from a control state that is given. -/
theorem tick_goto {s : State} (h : s.rst = false) (p : Phase) : tick (s.goto p) = tickFrom p (s.goto p) :=
  tick_of_rst_low (s := s.goto p) h

/-! ### The registers -/

/-- The registers, the build parameters and the reset line are the same. -/
structure RegsKept (s t : State) : Prop where
  V : t.V = s.V
  C : t.C = s.C
  RC : t.RC = s.RC
  INST : t.INST = s.INST
  cfg : t.cfg = s.cfg
  rst : t.rst = s.rst

theorem RegsKept.refl (s : State) : RegsKept s s := ⟨rfl, rfl, rfl, rfl, rfl, rfl⟩

theorem goto_regsKept (s : State) (p : Phase) : RegsKept s (s.goto p) := ⟨rfl, rfl, rfl, rfl, rfl, rfl⟩

theorem hashRequest_goto_regsKept (m : List Byte) (s : State) (p : Phase) :
    RegsKept s ((hashRequest m s).2.goto p) := ⟨rfl, rfl, rfl, rfl, rfl, rfl⟩

theorem respond_regsKept (st : Status) (s : State) : RegsKept s (respond st s) :=
  ⟨respond_V st s, respond_C st s, respond_RC st s, respond_INST st s, respond_cfg st s, respond_rst st s⟩

theorem tickIdle_regsKept (s : State) : RegsKept s (tickIdle s) := by
  unfold tickIdle
  split
  · exact .refl s
  · exact ⟨rfl, rfl, rfl, rfl, rfl, rfl⟩

theorem tickCheck_regsKept (d : Descriptor) (s : State) : RegsKept s (tickCheck d s) := by
  unfold tickCheck
  split
  · exact goto_regsKept _ _
  · split <;> exact goto_regsKept _ _

theorem tickAbsorb_regsKept (i : Instr) (got : List Byte) (s : State) : RegsKept s (tickAbsorb i got s) := by
  unfold tickAbsorb
  split_ifs
  · exact goto_regsKept _ _
  · exact .refl s
  · exact ⟨rfl, rfl, rfl, rfl, rfl, rfl⟩

theorem tickDeriveV_regsKept (df : DfRun) (s : State) : RegsKept s (tickDeriveV df s) := by
  unfold tickDeriveV
  split_ifs
  · exact hashRequest_goto_regsKept _ _ _
  · exact .refl s
  · exact goto_regsKept _ _

theorem tickDeriveC_regsKept (newV : SeedVal) (df : DfRun) (s : State) : RegsKept s (tickDeriveC newV df s) := by
  unfold tickDeriveC
  split_ifs
  · exact hashRequest_goto_regsKept _ _ _
  · exact .refl s
  · exact goto_regsKept _ _

theorem tickGenW_regsKept (add : List Byte) (n : Nat) (s : State) : RegsKept s (tickGenW add n s) := by
  unfold tickGenW
  split
  · exact hashRequest_goto_regsKept _ _ _
  · exact .refl s

theorem tickGenOut_regsKept (vw temp : SeedVal) (pending : List Byte) (left : Nat) (s : State) :
    RegsKept s (tickGenOut vw temp pending left s) := by
  unfold tickGenOut
  split
  · split
    · exact ⟨rfl, rfl, rfl, rfl, rfl, rfl⟩
    · exact .refl s
  · split_ifs
    · exact goto_regsKept _ _
    · exact hashRequest_goto_regsKept _ _ _
    · exact .refl s

theorem tickGenH_regsKept (vw : SeedVal) (s : State) : RegsKept s (tickGenH vw s) := by
  unfold tickGenH
  split
  · exact hashRequest_goto_regsKept _ _ _
  · exact .refl s

/-- R31: outside COMMIT a transition writes no register. -/
theorem tickFrom_regsKept (p : Phase) (hp : p.fsm ≠ .commit) (s : State) : RegsKept s (tickFrom p s) := by
  cases p with
  | idle => exact tickIdle_regsKept s
  | check d => exact tickCheck_regsKept d s
  | absorb i got => exact tickAbsorb_regsKept i got s
  | deriveV df => exact tickDeriveV_regsKept df s
  | deriveC newV df => exact tickDeriveC_regsKept newV df s
  | genW add n => exact tickGenW_regsKept add n s
  | genOut vw temp pending left => exact tickGenOut_regsKept vw temp pending left s
  | genH vw => exact tickGenH_regsKept vw s
  | commit w => exact absurd rfl hp
  | respond st => exact respond_regsKept st s

theorem tick_regsKept {s : State} (h : s.rst = false) (hp : s.phase.fsm ≠ .commit) : RegsKept s (tick s) := by
  rw [tick_of_rst_low h]
  exact tickFrom_regsKept _ hp s

/-- R31, R46: the transition in COMMIT. -/
theorem tick_commit {s : State} {w : Writes} (h : s.rst = false) (hp : s.phase = .commit w) :
    tick s = (commit w s).goto (.respond .ok) := by
  rw [tick_of_rst_low h, hp]
  rfl

theorem Phase.eq_commit_of_fsm {p : Phase} (h : p.fsm = .commit) : ∃ w, p = .commit w := by
  cases p with
  | commit w => exact ⟨w, rfl⟩
  | _ => cases h

/-- R31: with reset low a transition is a commit, or writes no register. -/
theorem tick_cases {s : State} (h : s.rst = false) :
    (∃ w, s.phase = .commit w ∧ tick s = (commit w s).goto (.respond .ok)) ∨
      (s.phase.fsm ≠ .commit ∧ RegsKept s (tick s)) := by
  by_cases hp : s.phase.fsm = .commit
  · obtain ⟨w, hw⟩ := Phase.eq_commit_of_fsm hp
    exact .inl ⟨w, hw, tick_commit h hw⟩
  · exact .inr ⟨hp, tick_regsKept h hp⟩

/-- R124: only the host drives the reset line. -/
@[simp] theorem tick_rst (s : State) : (tick s).rst = s.rst := by
  cases h : s.rst with
  | true => rw [tick_of_rst_high h, applyReset_rst, h]
  | false =>
    obtain ⟨w, -, ht⟩ | ⟨-, hk⟩ := tick_cases h
    · rw [ht, goto_rst, (commit_sameLines w s).rst, h]
    · rw [hk.rst, h]

/-- R24: a commit sets `INST` or leaves it. -/
theorem commit_INST (w : Writes) {s : State} (h : s.INST = true) : (commit w s).INST = true := by
  cases w with
  | seed newV newC => rfl
  | advance newV => exact h

theorem tick_INST {s : State} (h : s.INST = true) (hr : s.rst = false) : (tick s).INST = true := by
  obtain ⟨w, -, ht⟩ | ⟨-, hk⟩ := tick_cases hr
  · rw [ht, goto_INST, commit_INST w h]
  · rw [hk.INST, h]

/-! ### The order of the control states -/

/-- R27: the control states that can stand after a transition with reset low, the same one where the sequencer waits. -/
def Fsm.next : Fsm → List Fsm
  | .idle => [.idle, .check]
  | .check => [.absorb, .respond]
  | .absorb => [.absorb, .deriveV, .genW, .genOut]
  | .deriveV => [.deriveV, .deriveC]
  | .deriveC => [.deriveC, .commit]
  | .genW => [.genW, .genOut]
  | .genOut => [.genOut, .genH]
  | .genH => [.genH, .commit]
  | .commit => [.respond]
  | .respond => [.respond, .idle]

theorem respond_fsm (st : Status) (s : State) :
    (respond st s).phase.fsm = if s.rspReady = true then .idle else .respond := by
  unfold respond
  split <;> rfl

theorem tickIdle_fsm {s : State} (h : s.phase = .idle) :
    (tickIdle s).phase.fsm = if s.cmdIn = [] then .idle else .check := by
  unfold tickIdle
  cases s.cmdIn with
  | nil => simp [h, Phase.fsm]
  | cons d rest => simp [Phase.fsm]

theorem afterAbsorb_fsm (i : Instr) (payload : List Byte) (s : State) :
    (afterAbsorb i payload s).fsm ∈ [Fsm.deriveV, .genW, .genOut] := by
  obtain ⟨M, h⟩ | ⟨add, n, -, h⟩ | ⟨n, h⟩ := afterAbsorb_cases i payload s <;> simp [h, Phase.fsm]

/-- R27: a transition goes along the table of the control states. -/
theorem tickFrom_fsm {p : Phase} {s : State} (hp : s.phase = p) : (tickFrom p s).phase.fsm ∈ p.fsm.next := by
  cases p with
  | idle =>
    rw [tickFrom, tickIdle_fsm hp]
    split <;> simp [Fsm.next, Phase.fsm]
  | check d =>
    simp only [tickFrom, tickCheck]
    split
    · simp [Fsm.next, Phase.fsm]
    · split <;> simp [Fsm.next, Phase.fsm]
  | absorb i got =>
    simp only [tickFrom, tickAbsorb]
    split_ifs
    · exact List.mem_cons_of_mem _ (afterAbsorb_fsm i got s)
    · simp [hp, Fsm.next, Phase.fsm]
    · simp [Fsm.next, Phase.fsm]
  | deriveV df =>
    simp only [tickFrom, tickDeriveV]
    split_ifs <;> simp [hp, Fsm.next, Phase.fsm]
  | deriveC newV df =>
    simp only [tickFrom, tickDeriveC]
    split_ifs <;> simp [hp, Fsm.next, Phase.fsm]
  | genW add n =>
    simp only [tickFrom, tickGenW]
    split_ifs <;> simp [hp, Fsm.next, Phase.fsm]
  | genOut vw temp pending left =>
    cases pending with
    | nil =>
      simp only [tickFrom, tickGenOut]
      split_ifs <;> simp [hp, Fsm.next, Phase.fsm]
    | cons b rest =>
      simp only [tickFrom, tickGenOut]
      split_ifs <;> simp [hp, Fsm.next, Phase.fsm]
  | genH vw =>
    simp only [tickFrom, tickGenH]
    split_ifs <;> simp [hp, Fsm.next, Phase.fsm]
  | commit w => exact List.mem_singleton_self _
  | respond st =>
    rw [tickFrom, respond_fsm]
    split <;> simp [Fsm.next, Phase.fsm]

theorem tick_fsm {s : State} (h : s.rst = false) : (tick s).phase.fsm ∈ s.phase.fsm.next := by
  rw [tick_of_rst_low h]
  exact tickFrom_fsm rfl

/-- R27: along the table the code does not fall, but from RESPOND to IDLE. -/
theorem Fsm.next_order (a b : Fsm) (h : b ∈ a.next) :
    (a = .respond ∧ b = .idle) ∨
      (a.code.toNat ≤ b.code.toNat ∧ (a = .check → b = .absorb ∨ b = .respond) ∧
        (a = .idle → b = .idle ∨ b = .check)) := by
  revert b
  cases a <;> decide

/-- R27: the table leads to IDLE from IDLE and RESPOND alone. -/
theorem Fsm.idle_not_mem_next (a : Fsm) (hi : a ≠ .idle) (hr : a ≠ .respond) : Fsm.idle ∉ a.next := by
  revert hi hr
  cases a <;> decide

/-- R29: `busy` changes when a command is accepted and when a response is taken. -/
theorem tick_busy_iff {s : State} (h : s.rst = false) :
    (tick s).status.busy ≠ s.status.busy ↔
      s.phase.fsm = .idle ∧ s.cmdIn ≠ [] ∨ s.phase.fsm = .respond ∧ s.rspReady = true := by
  have hnext := tick_fsm h
  rw [tick_of_rst_low h] at hnext ⊢
  simp only [State.status]
  cases hp : s.phase with
  | idle =>
    rw [tickFrom, tickIdle_fsm hp]
    by_cases hc : s.cmdIn = [] <;> simp [Phase.fsm, hc]
  | respond st =>
    rw [tickFrom, respond_fsm]
    by_cases hr : s.rspReady = true <;> simp [Phase.fsm, hr]
  | _ =>
    rw [hp] at hnext
    have hbusy := ne_of_mem_of_not_mem hnext (Fsm.idle_not_mem_next _ nofun nofun)
    rw [decide_eq_true hbusy]
    simp [Phase.fsm]

/-! ### The scratch -/

/-- R69: a call that has not begun is sound. -/
theorem dfSound_start (M : List Byte) : DfSound (DfRun.start M) := ⟨Nat.zero_le _, rfl⟩

/-- R69: a turn of a sound call leaves it sound, whatever state its request is made in. -/
theorem dfSound_take {df : DfRun} (h : DfSound df) (hu : df.unfinished = true) (s : State) :
    DfSound (df.take (hashRequest df.message s).1) := by
  obtain ⟨hlen, hloop⟩ := h
  refine ⟨by rw [DfRun.take_length _ _ hlen]; exact Nat.min_le_left _ _, ?_⟩
  have hturn := congrArg (fun r => r.1.out) (dfRequests_turn df s hu)
  simp only [dfRequests_out] at hturn
  exact hturn.symm.trans hloop

/-- R69, R75: a finished sound call has derived Hash_df of its message. -/
theorem dfSound_result {df : DfRun} (h : DfSound df) (hu : df.unfinished = false) :
    df.result = hashDf55 df.msg := by
  have hlen : SEEDLEN ≤ df.out.length := by simpa [DfRun.unfinished] using hu
  rw [hashDf55, ← h.2, dfLoop_done _ _ _ _ _ hlen, DfRun.result]

theorem tickAbsorb_phaseSound {i : Instr} {got : List Byte} {s : State} (hp : s.phase = .absorb i got)
    (hpre : precondition i s = none) (hlen : got.length ≤ payloadLen i) : PhaseSound (tickAbsorb i got s) := by
  unfold tickAbsorb
  split_ifs with hall hempty
  · cases i with
    | instantiate e n p => exact dfSound_start _
    | reseed e a => exact dfSound_start _
    | generate a n =>
      obtain ⟨hinst, hrc, hn, -⟩ := (generateError_none _ _ _ _ _).mp hpre
      by_cases hadd : payloadField got 0 a = [] <;>
        simpa [afterAbsorb, hadd, PhaseSound, MAX_REQUEST] using ⟨⟨hinst, hrc⟩, hn⟩
  · simpa [PhaseSound, hp] using ⟨hpre, hlen⟩
  · refine ⟨hpre, ?_⟩
    have htake : (inBytes 1 s).1.length ≤ 1 := List.length_take_le 1 s.dataIn
    rw [List.length_append]
    omega

theorem tickDeriveV_phaseSound {df : DfRun} {s : State} (hp : s.phase = .deriveV df) (h : DfSound df) :
    PhaseSound (tickDeriveV df s) := by
  unfold tickDeriveV
  split_ifs with hu
  · exact dfSound_take h hu s
  · simpa [PhaseSound, hp] using h
  · exact ⟨dfSound_start _, rfl⟩

theorem tickDeriveC_phaseSound {newV : SeedVal} {df : DfRun} {s : State} (hp : s.phase = .deriveC newV df)
    (h : DfSound df) (hmsg : df.msg = constantSeed newV) : PhaseSound (tickDeriveC newV df s) := by
  unfold tickDeriveC
  split_ifs with hu
  · exact ⟨dfSound_take h hu s, hmsg⟩
  · simpa [PhaseSound, hp] using ⟨h, hmsg⟩
  · exact (dfSound_result h (by simpa using hu)).trans (by rw [hmsg])

theorem tickGenW_phaseSound {add : List Byte} {n : Nat} {s : State} (hp : s.phase = .genW add n)
    (ha : GenerateAdmitted s) (hadd : add ≠ []) (hn : n ≤ MAX_REQUEST) : PhaseSound (tickGenW add n s) := by
  unfold tickGenW
  split_ifs
  · exact ⟨ha, Nat.zero_le _, by simpa using hn⟩
  · simpa [PhaseSound, hp] using ⟨ha, hadd, hn⟩

theorem tickGenOut_phaseSound {vw temp : SeedVal} {pending : List Byte} {left : Nat} {s : State}
    (hp : s.phase = .genOut vw temp pending left) (ha : GenerateAdmitted s) (hblock : pending.length ≤ DIGEST)
    (hn : pending.length + left ≤ MAX_REQUEST) : PhaseSound (tickGenOut vw temp pending left s) := by
  cases pending with
  | nil =>
    simp only [tickGenOut]
    split_ifs
    · exact ha
    · refine ⟨ha, ?_, ?_⟩ <;> simp only [outputBlock_eq, List.length_take, digestBytes_length]
      · omega
      · simp only [List.length_nil] at hn
        omega
    · simpa [PhaseSound, hp] using And.intro ha hn
  | cons b rest =>
    simp only [tickGenOut]
    rw [List.length_cons] at hblock hn
    split_ifs
    · exact ⟨ha, by omega, by omega⟩
    · simpa [PhaseSound, hp] using ⟨ha, hblock, hn⟩

theorem tickGenH_phaseSound {vw : SeedVal} {s : State} (hp : s.phase = .genH vw) (ha : GenerateAdmitted s) :
    PhaseSound (tickGenH vw s) := by
  unfold tickGenH
  split_ifs
  · exact ha
  · simpa [PhaseSound, hp] using ha

theorem tickCheck_phaseSound (d : Descriptor) (s : State) : PhaseSound (tickCheck d s) := by
  unfold tickCheck
  split
  · trivial
  · split
    · trivial
    · next h => exact ⟨h, Nat.zero_le _⟩

theorem tickIdle_phaseSound {s : State} (hp : s.phase = .idle) : PhaseSound (tickIdle s) := by
  unfold tickIdle
  split
  · simp [PhaseSound, hp]
  · trivial

theorem respond_phaseSound (st : Status) (s : State) : PhaseSound (respond st s) := by
  obtain ⟨-, h⟩ | ⟨-, h⟩ := respond_cases st s <;> rw [h] <;> trivial

/-- R27, R28: every transition with reset low keeps the scratch sound. -/
theorem tickFrom_phaseSound {p : Phase} {s : State} (hp : s.phase = p) (h : PhaseSound s) :
    PhaseSound (tickFrom p s) := by
  cases p <;> simp only [PhaseSound, hp] at h
  case idle => exact tickIdle_phaseSound hp
  case check d => exact tickCheck_phaseSound d s
  case absorb i got =>
    obtain ⟨hpre, hlen⟩ := h
    exact tickAbsorb_phaseSound hp hpre hlen
  case deriveV df => exact tickDeriveV_phaseSound hp h
  case deriveC newV df =>
    obtain ⟨hdf, hmsg⟩ := h
    exact tickDeriveC_phaseSound hp hdf hmsg
  case genW add n =>
    obtain ⟨ha, hadd, hn⟩ := h
    exact tickGenW_phaseSound hp ha hadd hn
  case genOut vw temp pending left =>
    obtain ⟨ha, hblock, hn⟩ := h
    exact tickGenOut_phaseSound hp ha hblock hn
  case genH vw => exact tickGenH_phaseSound hp h
  case commit w => trivial
  case respond st => exact respond_phaseSound st s

end Sys2Proof.Machine
end

section
/-! SUPPORT. A step as a run of the sequencer's transitions (R27, R46), control state by control state, from the last one
back to the first: each lemma says that the transitions from a control state lead where the operation named after it
leads. -/

namespace Sys2Proof.Machine

/-! ### Runs of transitions -/

/-- Transitions of the sequencer lead from `s` to `t`. -/
def Leads (s t : State) : Prop := ∃ k : Nat, ticks k s = t

theorem ticks_add (j k : Nat) (s : State) : ticks (j + k) s = ticks k (ticks j s) := by
  induction j generalizing s with
  | zero => rw [Nat.zero_add, ticks]
  | succ j ih => rw [Nat.succ_add, ticks, ih, ticks]

theorem Leads.refl (s : State) : Leads s s := ⟨0, rfl⟩

theorem Leads.trans {s t u : State} : Leads s t → Leads t u → Leads s u
  | ⟨j, hj⟩, ⟨k, hk⟩ => ⟨j + k, by rw [ticks_add, hj, hk]⟩

/-- A run whose first transition is known. -/
theorem Leads.head {s t u : State} (h : tick s = t) : Leads t u → Leads s u
  | ⟨k, hk⟩ => ⟨k + 1, by rw [ticks, h, hk]⟩

/-- What every transition keeps, a run of them keeps. -/
theorem Leads.induct {P : State → Prop} (hP : ∀ s, P s → P (tick s)) {s t : State} : Leads s t → P s → P t
  | ⟨k, hk⟩ => by
    subst hk
    induction k generalizing s with
    | zero => exact id
    | succ k ih => exact fun h => ih (hP s h)

/-! ### RESPOND and COMMIT -/

theorem leads_respond (st : Status) {s : State} (hr : s.rst = false) :
    Leads (s.goto (.respond st)) (respond st s) :=
  .head (tick_goto hr _) (respond_of_goto st s _ ▸ .refl _)

theorem leads_commitAndRespond (w : Writes) {s : State} (hr : s.rst = false) :
    Leads (s.goto (.commit w)) (commitAndRespond w s) := by
  refine .head (t := (commit w s).goto (.respond .ok)) ?_ ?_
  · rw [tick_goto hr, tickFrom, tickCommit, commit_of_goto, goto_goto]
  · exact leads_respond .ok ((commit_sameLines w s).rst.trans hr)

/-! ### DERIVE_V and DERIVE_C -/

/-- R69: with a turn for each 32 bytes missing, a call is finished. -/
theorem dfRequests_finishes (fuel : Nat) (df : DfRun) (s : State) (h : SEEDLEN ≤ df.out.length + DIGEST * fuel) :
    (dfRequests fuel df s).1.unfinished = false := by
  induction fuel generalizing df s with
  | zero =>
    have hlen : SEEDLEN ≤ df.out.length := h
    show df.unfinished = false
    simpa [DfRun.unfinished] using hlen
  | succ fuel ih =>
    by_cases hu : df.unfinished = true
    · rw [dfRequests, if_pos hu]
      have hl := DfRun.take_length df (hashRequest df.message s).1 (df.unfinished_iff.mp hu).le
      exact ih _ _ (by rw [hl]; simp only [SEEDLEN, DIGEST] at h ⊢; omega)
    · rw [dfRequests_finished _ _ _ (by simpa using hu)]
      simpa using hu

/-- R69: in the control state `at_`, which holds a Hash_df call, a transition is a turn of the call. -/
def TurnsIn (at_ : DfRun → Phase) : Prop :=
  ∀ (df : DfRun) (s : State), s.rst = false → s.engineAnswers = true → df.unfinished = true →
    tick (s.goto (at_ df)) = (hashRequest df.message s).2.goto (at_ (df.take (hashRequest df.message s).1))

theorem deriveV_turnsIn : TurnsIn .deriveV := by
  intro df s hr he hu
  rw [tick_goto hr, tickFrom, tickDeriveV, if_pos hu, goto_engineAnswers, if_pos he]
  rfl

theorem deriveC_turnsIn (newV : SeedVal) : TurnsIn (.deriveC newV) := by
  intro df s hr he hu
  rw [tick_goto hr, tickFrom, tickDeriveC, if_pos hu, goto_engineAnswers, if_pos he]
  rfl

/-- R69: the transitions make the call's requests. -/
theorem leads_dfRequests {at_ : DfRun → Phase} (hturn : TurnsIn at_) (fuel : Nat) (df : DfRun)
    (s : State) (hr : s.rst = false) (he : s.engineAnswers = true) :
    Leads (s.goto (at_ df)) ((dfRequests fuel df s).2.goto (at_ (dfRequests fuel df s).1)) := by
  induction fuel generalizing df s with
  | zero => exact .refl _
  | succ fuel ih =>
    by_cases hu : df.unfinished = true
    · rw [dfRequests, if_pos hu]
      exact .head (hturn df s hr he hu) (ih _ _ hr he)
    · rw [dfRequests_finished _ _ _ (by simpa using hu)]
      exact .refl _

/-- R69: the transitions carry a call to its end, unless it waits for the engine. -/
theorem leads_dfCall {at_ : DfRun → Phase} (hturn : TurnsIn at_) (df : DfRun) (s : State)
    (hr : s.rst = false) (hw : ¬(df.unfinished && !s.engineAnswers) = true) :
    Leads (s.goto (at_ df))
      ((dfRequests (dfTurns SEEDLEN) df s).2.goto (at_ (dfRequests (dfTurns SEEDLEN) df s).1)) := by
  by_cases hu : df.unfinished = true
  · exact leads_dfRequests hturn _ df s hr (by simpa [hu] using hw)
  · rw [dfRequests_finished _ _ _ (by simpa using hu)]
    exact .refl _

theorem dfRequests_rst (fuel : Nat) (df : DfRun) (s : State) : (dfRequests fuel df s).2.rst = s.rst := by
  rw [dfRequests_state, hashed_rst]

theorem dfRequests_seed_finished (df : DfRun) (s : State) :
    (dfRequests (dfTurns SEEDLEN) df s).1.unfinished = false :=
  dfRequests_finishes _ df s (by rw [dfTurns_seed]; simp only [SEEDLEN, DIGEST]; omega)

theorem leads_fromDeriveC (newV : SeedVal) (df : DfRun) {s : State} (hr : s.rst = false) :
    Leads (s.goto (.deriveC newV df)) (fromDeriveC newV df s) := by
  unfold fromDeriveC
  split
  · exact .refl _
  next hw =>
    have hrr := (dfRequests_rst (dfTurns SEEDLEN) df s).trans hr
    refine (leads_dfCall (deriveC_turnsIn newV) df s hr hw).trans (.head ?_ (leads_commitAndRespond _ hrr))
    rw [tick_goto hrr, tickFrom, tickDeriveC, if_neg (by rw [dfRequests_seed_finished]; decide), goto_goto]

theorem leads_fromDeriveV (df : DfRun) {s : State} (hr : s.rst = false) :
    Leads (s.goto (.deriveV df)) (fromDeriveV df s) := by
  unfold fromDeriveV
  split
  · exact .refl _
  next hw =>
    have hrr := (dfRequests_rst (dfTurns SEEDLEN) df s).trans hr
    refine (leads_dfCall deriveV_turnsIn df s hr hw).trans (.head ?_ (leads_fromDeriveC _ _ hrr))
    rw [tick_goto hrr, tickFrom, tickDeriveV, if_neg (by rw [dfRequests_seed_finished]; decide), goto_goto]

/-! ### GEN_H, GEN_OUT and GEN_W -/

theorem leads_fromGenH (vw : SeedVal) {s : State} (hr : s.rst = false) :
    Leads (s.goto (.genH vw)) (fromGenH vw s) := by
  unfold fromGenH
  split
  · exact .refl _
  next he =>
    refine .head ?_ (leads_commitAndRespond _ hr)
    rw [tick_goto hr, tickFrom, tickGenH, goto_engineAnswers, if_pos (by simpa using he)]
    rfl

/-- R42: a block goes out byte by byte. -/
theorem leads_outBytes (vw temp : SeedVal) (pending : List Byte) (left : Nat) {s : State} (hr : s.rst = false)
    (ho : s.outReady = true) :
    Leads (s.goto (.genOut vw temp pending left)) ((outBytes pending s).goto (.genOut vw temp [] left)) := by
  induction pending generalizing s with
  | nil =>
    rw [outBytes, List.append_nil]
    exact .refl _
  | cons b rest ih =>
    have hout : outBytes (b :: rest) s = outBytes rest (outBytes [b] s) := by simp [outBytes]
    rw [hout]
    refine .head ?_ (ih (s := outBytes [b] s) hr ho)
    rw [tick_goto hr, tickFrom, tickGenOut, goto_outReady, if_pos ho]
    rfl

/-- R101: a block is made. -/
theorem tick_genOut_block (vw temp : SeedVal) {left : Nat} {s : State} (hr : s.rst = false) (hleft : left ≠ 0)
    (he : s.engineAnswers = true) :
    tick (s.goto (.genOut vw temp [] left)) =
      (outputBlock temp left s).2.goto (.genOut vw (inc temp) (outputBlock temp left s).1 (left - DIGEST)) := by
  rw [tick_goto hr, tickFrom, tickGenOut, if_neg hleft, goto_engineAnswers, if_pos he]
  rfl

/-- R101: the output loop ends in GEN_H. -/
theorem tick_genOut_done (vw temp : SeedVal) {s : State} (hr : s.rst = false) :
    tick (s.goto (.genOut vw temp [] 0)) = s.goto (.genH vw) := by
  rw [tick_goto hr, tickFrom, tickGenOut, if_pos rfl, goto_goto]

/-- R101: the output loop, one block after another, each byte by byte. -/
theorem leads_outputLoop (vw : SeedVal) (turns : Nat) (temp : SeedVal) (left : Nat) {s : State} (hr : s.rst = false)
    (ho : s.outReady = true) (he : s.engineAnswers = true) (ht : turns = blockCount left) :
    Leads (s.goto (.genOut vw temp [] left)) ((outputLoop turns temp left s).goto (.genH vw)) := by
  induction turns generalizing temp left s with
  | zero =>
    have hleft : left = 0 := by simp only [blockCount, DIGEST] at ht; omega
    subst hleft
    exact .head (tick_genOut_done vw temp hr) (.refl _)
  | succ turns ih =>
    have hleft : left ≠ 0 := by rintro rfl; cases ht
    have hrest : turns = blockCount (left - DIGEST) := by simp only [blockCount, DIGEST] at ht ⊢; omega
    refine .head (tick_genOut_block vw temp hr hleft he) (.trans (leads_outBytes _ _ _ _ hr ho) ?_)
    exact ih _ _ hr ho he hrest

theorem leads_fromGenOut (vw temp : SeedVal) (pending : List Byte) (left : Nat) {s : State} (hr : s.rst = false) :
    Leads (s.goto (.genOut vw temp pending left)) (fromGenOut vw temp pending left s) := by
  unfold fromGenOut
  split
  · exact .refl _
  next hw =>
    have hpending : Leads (s.goto (.genOut vw temp pending left))
        ((outBytes pending s).goto (.genOut vw temp [] left)) := by
      cases pending with
      | nil =>
        rw [outBytes, List.append_nil]
        exact .refl _
      | cons b rest => exact leads_outBytes _ _ _ _ hr (by simpa using hw)
    refine hpending.trans ?_
    have hr1 : (outBytes pending s).rst = false := hr
    simp only
    split_ifs with hleft he ho
    · subst hleft
      exact .head (tick_genOut_done vw temp hr1) (leads_fromGenH vw hr1)
    · exact .refl _
    · exact .head (tick_genOut_block vw temp hr1 hleft (by simpa using he)) (.refl _)
    · refine (leads_outputLoop vw _ temp left hr1 (by simpa using ho) (by simpa using he) rfl).trans ?_
      exact leads_fromGenH vw ((outputLoop_sameLines _ _ _ _).rst.trans hr1)

theorem leads_fromGenW (add : List Byte) (n : Nat) {s : State} (hr : s.rst = false) :
    Leads (s.goto (.genW add n)) (fromGenW add n s) := by
  unfold fromGenW
  split
  · exact .refl _
  next he =>
    refine .head ?_ (leads_fromGenOut _ _ [] n hr)
    rw [tick_goto hr, tickFrom, tickGenW, goto_engineAnswers, if_pos (by simpa using he)]
    rfl

/-! ### ABSORB, CHECK and IDLE -/

/-- R41: bytes that are on data-in are taken one by one, as long as the payload is not complete. -/
theorem leads_inBytes (i : Instr) (m : Nat) (got : List Byte) {s : State} (hr : s.rst = false)
    (hneed : m ≤ payloadLen i - got.length) (hthere : m ≤ s.dataIn.length) :
    Leads (s.goto (.absorb i got)) ((inBytes m s).2.goto (.absorb i (got ++ (inBytes m s).1))) := by
  induction m generalizing got s with
  | zero =>
    rw [inBytes, List.take_zero, List.drop_zero, List.append_nil]
    exact .refl _
  | succ m ih =>
    have htick : tick (s.goto (.absorb i got)) = (inBytes 1 s).2.goto (.absorb i (got ++ (inBytes 1 s).1)) := by
      have hne : s.dataIn ≠ [] := by rintro h; simp [h] at hthere
      rw [tick_goto hr, tickFrom, tickAbsorb, if_neg (by omega), goto_dataIn, if_neg (by simpa using hne)]
      rfl
    have hone : (inBytes 1 s).1.length = 1 := by simp only [inBytes, List.length_take]; omega
    have hrest := ih (got ++ (inBytes 1 s).1) (s := (inBytes 1 s).2) hr
      (by rw [List.length_append]; omega) (by rw [inBytes_dataIn, List.length_drop]; omega)
    have hsplit : inBytes (m + 1) s =
        ((inBytes 1 s).1 ++ (inBytes m (inBytes 1 s).2).1, (inBytes m (inBytes 1 s).2).2) := by
      simp [inBytes, Nat.add_comm m 1, List.take_add]
    rw [hsplit, ← List.append_assoc]
    exact .head htick hrest

theorem afterAbsorb_inBytes (i : Instr) (payload : List Byte) (n : Nat) (s : State) :
    afterAbsorb i payload (inBytes n s).2 = afterAbsorb i payload s := by
  cases i <;> rfl

/-- R27: what follows ABSORB. -/
theorem leads_afterAbsorb (i : Instr) (payload : List Byte) (s : State) {t : State} (hr : t.rst = false) :
    Leads (t.goto (afterAbsorb i payload s)) (proceedFrom (afterAbsorb i payload s) t) := by
  obtain ⟨M, h⟩ | ⟨add, n, -, h⟩ | ⟨n, h⟩ := afterAbsorb_cases i payload s <;> rw [h]
  · exact leads_fromDeriveV _ hr
  · exact leads_fromGenW _ _ hr
  · exact leads_fromGenOut _ _ _ _ hr

theorem leads_resumeAbsorb (i : Instr) (got : List Byte) {s : State} (hr : s.rst = false) :
    Leads (s.goto (.absorb i got)) (resumeAbsorb i got s) := by
  by_cases h : payloadLen i - got.length ≤ s.dataIn.length
  · rw [resumeAbsorb_enough _ _ _ h]
    refine (leads_inBytes i _ got hr le_rfl h).trans (.head ?_ (leads_afterAbsorb i _ s hr))
    have hfull : payloadLen i ≤ (got ++ (inBytes (payloadLen i - got.length) s).1).length := by
      simp only [inBytes, List.length_append, List.length_take]
      omega
    have hr1 : (inBytes (payloadLen i - got.length) s).2.rst = false := hr
    rw [tick_goto hr1, tickFrom, tickAbsorb, if_pos hfull, afterAbsorb_of_goto, afterAbsorb_inBytes]
    rfl
  · rw [resumeAbsorb_waits _ _ _ (by omega)]
    have hall := leads_inBytes i s.dataIn.length got hr (by omega) le_rfl
    rwa [inBytes, List.take_length, List.drop_length] at hall

theorem leads_descriptorState (d : Descriptor) {s : State} (hr : s.rst = false) :
    Leads (s.goto (.check d)) (descriptorState d s) := by
  have htick : tick (s.goto (.check d)) = tickCheck d (s.goto (.check d)) := tick_goto hr _
  refine .head htick ?_
  unfold descriptorState tickCheck
  cases decode d with
  | illegal why => exact leads_respond _ hr
  | command i =>
    simp only [execState, precondition_of_goto]
    cases precondition i s with
    | some e => exact leads_respond _ hr
    | none => exact leads_resumeAbsorb i [] hr

theorem leads_acceptState {s : State} (hr : s.rst = false) (hp : s.phase = .idle) : Leads s (acceptState s) := by
  have htick : tick s = tickIdle s := by rw [tick_of_rst_low hr, hp, tickFrom]
  unfold acceptState
  cases hc : s.cmdIn with
  | nil => exact .refl _
  | cons d rest =>
    refine .head htick ?_
    unfold tickIdle
    rw [hc]
    exact leads_descriptorState d (s := { s with cmdIn := rest }) hr

/-! ### The step -/

/-- A state stands at the control state it is in. -/
theorem Leads.of_goto {s t : State} {p : Phase} (hp : s.phase = p) (h : Leads (s.goto p) t) : Leads s t := by
  subst hp
  exact h

/-- R27, R116: from every control state the transitions lead where the sequencer comes to rest. -/
theorem leads_proceedFrom {s : State} (hr : s.rst = false) : Leads s (proceedFrom s.phase s) := by
  cases hp : s.phase with
  | idle => exact leads_acceptState hr hp
  | check d => exact .of_goto hp (leads_descriptorState d hr)
  | absorb i got => exact .of_goto hp (leads_resumeAbsorb i got hr)
  | deriveV df => exact .of_goto hp (leads_fromDeriveV df hr)
  | deriveC newV df => exact .of_goto hp (leads_fromDeriveC newV df hr)
  | genW add n => exact .of_goto hp (leads_fromGenW add n hr)
  | genOut vw temp pending left => exact .of_goto hp (leads_fromGenOut vw temp pending left hr)
  | genH vw => exact .of_goto hp (leads_fromGenH vw hr)
  | commit w => exact .of_goto hp (leads_commitAndRespond w hr)
  | respond st => exact .of_goto hp (leads_respond st hr)

/-- R27, R46: the transitions lead where the step leads. -/
theorem leads_advance (s : State) : Leads s (advance s) := by
  rw [advance_eq]
  split
  next hr => exact .head (tick_of_rst_high hr) (.refl _)
  next hr => exact leads_proceedFrom (by simpa using hr)

theorem leads_of_step {s t : State} (h : step s = .next t) : Leads s t := by
  rw [step_eq_advance, Host.Outcome.next.injEq] at h
  exact h ▸ leads_advance s

end Sys2Proof.Machine
end

section
/-! SUPPORT. The statements of the family of 10_state.md, settled: the invariant, the registers, the control states. -/

namespace Sys2Proof.Machine

/-! ### The invariant -/

/-- R26, R27: what a transition that writes no register must keep is the scratch. -/
theorem inv_of_regsKept {s t : State} (h : Inv s) (hk : RegsKept s t) (hp : PhaseSound t) : Inv t where
  uninstantiated := by rw [hk.INST, hk.V, hk.C, hk.RC]; exact h.uninstantiated
  counterPositive := by rw [hk.INST, hk.RC, hk.cfg]; exact h.counterPositive
  counterBound := by rw [hk.RC, hk.cfg]; exact h.counterBound
  constantDerived := by rw [hk.INST, hk.C]; exact h.constantDerived
  phaseSound := hp

/-- R22, R85: the commit of INSTANTIATE and RESEED. -/
theorem inv_commit_seed {newV newC : SeedVal} (s : State) (hC : newC = hashDf55 (constantSeed newV)) :
    Inv ((commit (.seed newV newC) s).goto (.respond .ok)) where
  uninstantiated := nofun
  counterPositive := fun _ _ => le_rfl
  counterBound := Nat.le_add_left 1 _
  constantDerived := fun _ => ⟨newV, hC⟩
  phaseSound := trivial

/-- R84: the commit of GENERATE; the counter was within the interval, so that it can only wrap at the greatest one. -/
theorem inv_commit_advance {s : State} (h : Inv s) (newV : SeedVal) (ha : GenerateAdmitted s) :
    Inv ((commit (.advance newV) s).goto (.respond .ok)) := by
  obtain ⟨hinst, hrc⟩ := ha
  have hnew : (s.RC + 1).toNat = (s.RC.toNat + 1) % 2 ^ 64 := by simp
  exact {
    uninstantiated := fun hu => by simp [hinst] at hu
    counterPositive := fun _ hi => by
      have hi : s.cfg.reseedInterval.toNat ≠ 2 ^ 64 - 1 := hi
      have hlt := s.cfg.reseedInterval.isLt
      show 1 ≤ (s.RC + 1).toNat
      rw [hnew, Nat.mod_eq_of_lt (by omega)]
      omega
    counterBound := by
      show (s.RC + 1).toNat ≤ s.cfg.reseedInterval.toNat + 1
      rw [hnew]
      exact (Nat.mod_le _ _).trans (Nat.succ_le_succ hrc)
    constantDerived := h.constantDerived
    phaseSound := trivial }

/-- R35: the reset values meet the invariant. -/
theorem inv_applyReset (s : State) : Inv s.applyReset :=
  ⟨fun _ => ⟨rfl, rfl, rfl⟩, nofun, Nat.zero_le _, nofun, trivial⟩

theorem inv_tick {s : State} (h : Inv s) : Inv (tick s) := by
  cases hr : s.rst with
  | true => exact tick_of_rst_high hr ▸ inv_applyReset s
  | false =>
    obtain ⟨w, hp, ht⟩ | ⟨-, hk⟩ := tick_cases hr
    · have hw := h.phaseSound
      rw [ht]
      cases w with
      | seed newV newC => exact inv_commit_seed s (by simpa [PhaseSound, hp] using hw)
      | advance newV => exact inv_commit_advance h newV (by simpa [PhaseSound, hp] using hw)
    · refine inv_of_regsKept h hk ?_
      rw [tick_of_rst_low hr]
      exact tickFrom_phaseSound rfl h.phaseSound

/-- R117: no clause of the invariant reads what an event of the host writes. -/
theorem inv_hostEvent (e : HostEvent) {s : State} (h : Inv s) : Inv (e.apply s) := by
  obtain ⟨hu, hpos, hbound, hder, hphase⟩ := h
  cases e <;> exact ⟨hu, hpos, hbound, hder, hphase⟩

theorem inv_event (e : Event) {s : State} (h : Inv s) : Inv (e.apply s) := by
  cases e with
  | core => exact inv_tick h
  | host e => exact inv_hostEvent e h

theorem inv_runEvents (es : List Event) {s : State} (h : Inv s) : Inv (runEvents es s) := by
  induction es generalizing s with
  | nil => exact h
  | cons e es ih => exact ih (inv_event e h)

theorem inv_powerOn (cfg : Config) : Inv (State.powerOn cfg) := inv_applyReset (State.powerOn cfg)

/-! ### Runs -/

theorem runEvents_append (es fs : List Event) (s : State) :
    runEvents (es ++ fs) s = runEvents fs (runEvents es s) := List.foldl_append

theorem reachable_tick {s : State} : Reachable s → Reachable (tick s)
  | ⟨cfg, hcfg, es, hs⟩ => ⟨cfg, hcfg, es ++ [.core], by rw [runEvents_append, ← hs]; rfl⟩

/-! ### The statements -/

/-- Settles O42: by the lemma for each control state, from RESPOND back to IDLE. -/
theorem stepIsRunOfTicks : Obligations.StepIsRunOfTicks := fun _ _ => leads_of_step

/-- Settles O46: a transition resets, commits or writes no register. -/
theorem tickKeepsInvariant : Obligations.TickKeepsInvariant := fun _ => inv_tick

/-- Settles O45: a step is a run of transitions, and each of them keeps the invariant. -/
theorem stepKeepsInvariant : Obligations.StepKeepsInvariant :=
  fun _ _ h hstep => (leads_of_step hstep).induct (P := Inv) (fun _ => inv_tick) h

/-- Settles O35: the transition in COMMIT is the commit, and no other one writes a register. -/
theorem commitWritesTogether : Obligations.CommitWritesTogether := by
  intro s hr
  refine ⟨fun newV newC hp => tick_commit hr hp, fun newV hp => tick_commit hr hp, fun hp => ?_⟩
  obtain ⟨hV, hC, hRC, hINST, -, -⟩ := tick_regsKept hr hp
  exact ⟨hV, hC, hRC, hINST⟩

/-- Settles O37: `busy` by the table of the control states, the others by the registers kept outside COMMIT. -/
theorem statusOutputsFollowCommands : Obligations.StatusOutputsFollowCommands := by
  intro s
  refine ⟨rfl, rfl, rfl, fun hr hp => ?_, fun hr => tick_busy_iff hr, fun e => ?_⟩
  · exact ⟨(tick_regsKept hr hp).INST, (tick_regsKept hr hp).RC⟩
  · cases e <;> rfl

/-- Settles O38: for the step, along the transitions it is made of. -/
theorem instantiatedUntilReset : Obligations.InstantiatedUntilReset := by
  intro s hi hr
  refine ⟨tick_INST hi hr, fun t hstep => ?_, fun e => ?_⟩
  · exact ((leads_of_step hstep).induct (P := fun u => u.INST = true ∧ u.rst = false)
      (fun u hu => ⟨tick_INST hu.1 hu.2, (tick_rst u).trans hu.2⟩) ⟨hi, hr⟩).1
  · cases e <;> exact hi

/-- Settles O41: a transition goes along the table, and the table has the order. -/
theorem sequencerOrder : Obligations.SequencerOrder :=
  fun _ hr => Fsm.next_order _ _ (tick_fsm hr)

/-- Settles O48: every event keeps the invariant, and a step is a run of core events. -/
theorem reachableStatesSound : Obligations.ReachableStatesSound := by
  intro s hs
  refine ⟨?_, fun t hstep => (leads_of_step hstep).induct (P := Reachable) (fun _ => reachable_tick) hs⟩
  obtain ⟨cfg, -, es, rfl⟩ := hs
  exact inv_runEvents es (inv_powerOn cfg)

theorem beBytes_zero (n : Nat) : beBytes n 0 = List.replicate n 0 := by
  induction n with
  | zero => rfl
  | succ n ih =>
    rw [beBytes, ih, Nat.zero_div, List.replicate_succ]
    rfl

/-- R35: the register value 0 is 55 zero bytes. -/
theorem seedBytes_zero : seedBytes 0 = List.replicate SEEDLEN 0 := by
  have hzero : (0 : SeedVal).toNat = 0 := BitVec.toNat_zero
  rw [seedBytes, hzero, beBytes_zero]

/-- Settles O8: the state after reset holds these values as written; 0 has 55 zero bytes. -/
theorem resetStateValues : Obligations.ResetStateValues :=
  fun _ => ⟨seedBytes_zero, seedBytes_zero, rfl, rfl, rfl, rfl, rfl, rfl⟩

/-- Settles O44: at power-on the core holds the reset values. -/
theorem resetMeetsInvariant : Obligations.ResetMeetsInvariant := inv_powerOn

end Sys2Proof.Machine
end

section
/-! SUPPORT. The data paths (R37): where the bytes of a number stand on a bus, and what a transition and a step take from
the command channel. -/

namespace Sys2Proof.Machine

/-! ### The bytes of a bus -/

/-- R12: byte `k` of `be_n(x)` has the weight `256^(n - 1 - k)`. -/
theorem beBytes_getD (n x k : Nat) (h : k < n) :
    (beBytes n x).getD k 0 = BitVec.ofNat 8 (x / 256 ^ (n - 1 - k)) := by
  induction n generalizing k with
  | zero => exact absurd h (Nat.not_lt_zero k)
  | succ n ih =>
    cases k with
    | zero => rfl
    | succ k =>
      have hweight : n + 1 - 1 - (k + 1) = n - 1 - k := by omega
      rw [beBytes, List.getD_cons_succ, ih k (Nat.lt_of_succ_lt_succ h), hweight]

/-- The byte of weight `256^j` in a word's value is the word's bits from `8 * j` on. -/
theorem ofNat_div_pow_eq_extractLsb' {w : Nat} (v : BitVec w) (j : Nat) :
    BitVec.ofNat 8 (v.toNat / 256 ^ j) = v.extractLsb' (8 * j) 8 := by
  have hpow : 256 ^ j = 2 ^ (8 * j) := (pow_mul 2 8 j).symm
  rw [hpow, ← Nat.shiftRight_eq_div_pow]
  rfl

/-- R12, R21, R39: the bytes of a bus, the most significant first. -/
theorem beBytes_toNat_getD {w : Nat} (v : BitVec w) (n k : Nat) (h : k < n) :
    (beBytes n v.toNat).getD k 0 = v.extractLsb' (8 * (n - 1 - k)) 8 := by
  rw [beBytes_getD n _ k h, ofNat_div_pow_eq_extractLsb']

/-! ### The command channel -/

theorem cmdReady_iff (s : State) : s.cmdReady = true ↔ s.phase = .idle ∧ s.rst = false := by
  cases hp : s.phase <;> simp [State.cmdReady, Phase.fsm, hp]

theorem SameLines.refl (s : State) : SameLines s s := ⟨rfl, rfl, rfl, rfl, rfl, rfl⟩

theorem hashRequest_goto_sameLines (m : List Byte) (s : State) (p : Phase) :
    SameLines s ((hashRequest m s).2.goto p) := ⟨rfl, rfl, rfl, rfl, rfl, rfl⟩

theorem tickCheck_sameLines (d : Descriptor) (s : State) : SameLines s (tickCheck d s) := by
  unfold tickCheck
  split
  · exact goto_sameLines _ _
  · split <;> exact goto_sameLines _ _

theorem tickAbsorb_sameLines (i : Instr) (got : List Byte) (s : State) : SameLines s (tickAbsorb i got s) := by
  unfold tickAbsorb
  split_ifs
  · exact goto_sameLines _ _
  · exact .refl s
  · exact (inBytes_sameLines 1 s).trans (goto_sameLines _ _)

theorem tickDeriveV_sameLines (df : DfRun) (s : State) : SameLines s (tickDeriveV df s) := by
  unfold tickDeriveV
  split_ifs
  · exact hashRequest_goto_sameLines _ _ _
  · exact .refl s
  · exact goto_sameLines _ _

theorem tickDeriveC_sameLines (newV : SeedVal) (df : DfRun) (s : State) :
    SameLines s (tickDeriveC newV df s) := by
  unfold tickDeriveC
  split_ifs
  · exact hashRequest_goto_sameLines _ _ _
  · exact .refl s
  · exact goto_sameLines _ _

theorem tickGenW_sameLines (add : List Byte) (n : Nat) (s : State) : SameLines s (tickGenW add n s) := by
  unfold tickGenW
  split
  · exact hashRequest_goto_sameLines _ _ _
  · exact .refl s

theorem tickGenOut_sameLines (vw temp : SeedVal) (pending : List Byte) (left : Nat) (s : State) :
    SameLines s (tickGenOut vw temp pending left s) := by
  cases pending with
  | nil =>
    simp only [tickGenOut]
    split_ifs
    · exact goto_sameLines _ _
    · exact hashRequest_goto_sameLines _ _ _
    · exact .refl s
  | cons b rest =>
    simp only [tickGenOut]
    split
    · exact (outBytes_sameLines [b] s).trans (goto_sameLines _ _)
    · exact .refl s

theorem tickGenH_sameLines (vw : SeedVal) (s : State) : SameLines s (tickGenH vw s) := by
  unfold tickGenH
  split
  · exact hashRequest_goto_sameLines _ _ _
  · exact .refl s

/-- R131: outside IDLE a transition leaves the command channel and the lines as they are. -/
theorem tickFrom_sameLines (p : Phase) (hp : p ≠ .idle) (s : State) : SameLines s (tickFrom p s) := by
  cases p with
  | idle => exact absurd rfl hp
  | check d => exact tickCheck_sameLines d s
  | absorb i got => exact tickAbsorb_sameLines i got s
  | deriveV df => exact tickDeriveV_sameLines df s
  | deriveC newV df => exact tickDeriveC_sameLines newV df s
  | genW add n => exact tickGenW_sameLines add n s
  | genOut vw temp pending left => exact tickGenOut_sameLines vw temp pending left s
  | genH vw => exact tickGenH_sameLines vw s
  | commit w => exact (commit_sameLines w s).trans (goto_sameLines _ _)
  | respond st => exact respond_sameLines st s

theorem descriptorState_sameLines (d : Descriptor) (s : State) : SameLines s (descriptorState d s) := by
  unfold descriptorState
  cases decode d with
  | command i => exact execState_sameLines i s
  | illegal _ => exact respond_sameLines _ s

/-- R131: so does what a step goes through outside IDLE. -/
theorem proceedFrom_sameLines (p : Phase) (hp : p ≠ .idle) (s : State) : SameLines s (proceedFrom p s) := by
  cases p with
  | idle => exact absurd rfl hp
  | check d => exact descriptorState_sameLines d s
  | absorb i got => exact resumeAbsorb_sameLines i got s
  | deriveV df => exact fromDeriveV_sameLines df s
  | deriveC newV df => exact fromDeriveC_sameLines newV df s
  | genW add n => exact fromGenW_sameLines add n s
  | genOut vw temp pending left => exact fromGenOut_sameLines vw temp pending left s
  | genH vw => exact fromGenH_sameLines vw s
  | commit w => exact commitAndRespond_sameLines w s
  | respond st => exact respond_sameLines st s

theorem tickIdle_cmdIn (s : State) : (tickIdle s).cmdIn = s.cmdIn.tail := by
  unfold tickIdle
  cases h : s.cmdIn with
  | nil => exact h
  | cons d rest => rfl

theorem acceptState_cons {s : State} {d : Descriptor} {rest : List Descriptor} (h : s.cmdIn = d :: rest) :
    acceptState s = descriptorState d { s with cmdIn := rest } := by
  simp [acceptState, h]

/-- R45: whatever the command taken does, it takes no further descriptor. -/
theorem acceptState_cmdIn (s : State) : (acceptState s).cmdIn = s.cmdIn.tail := by
  cases h : s.cmdIn with
  | nil => simp [acceptState, h]
  | cons d rest =>
    rw [acceptState_cons h]
    exact (descriptorState_sameLines d _).cmdIn

/-- R45, R131: what a transition takes from the command channel. -/
theorem tick_cmdIn (s : State) : (tick s).cmdIn = if s.cmdReady = true then s.cmdIn.tail else s.cmdIn := by
  simp only [cmdReady_iff]
  cases hr : s.rst with
  | true => simp [tick_of_rst_high hr]
  | false =>
    rw [tick_of_rst_low hr]
    by_cases hp : s.phase = .idle
    · simp [hp, tickFrom, tickIdle_cmdIn]
    · simp [hp, (tickFrom_sameLines _ hp s).cmdIn]

/-- R45, R131: what a step takes from it. -/
theorem advance_cmdIn (s : State) :
    (advance s).cmdIn = if s.cmdReady = true then s.cmdIn.tail else s.cmdIn := by
  rw [advance_eq]
  simp only [cmdReady_iff]
  cases hr : s.rst with
  | true => simp
  | false =>
    by_cases hp : s.phase = .idle
    · simp [hp, proceedFrom, acceptState_cmdIn]
    · simp [hp, (proceedFrom_sameLines _ hp s).cmdIn]

end Sys2Proof.Machine
end

section
/-! SUPPORT. The statements of the family of 20_memory.md, settled: the acceptance of descriptors, the byte order of a
digest. -/

namespace Sys2Proof.Machine

/-- Settles O39: by what a transition and a step take from the command channel, ready or not. -/
theorem acceptanceOnlyInIdle : Obligations.AcceptanceOnlyInIdle := by
  intro s
  have hstep (t : State) (h : step s = .next t) :
      t.cmdIn = if s.cmdReady = true then s.cmdIn.tail else s.cmdIn := by
    rw [step_eq_advance, Host.Outcome.next.injEq] at h
    exact h ▸ advance_cmdIn s
  constructor <;> intro hready <;> simpa [hready] using And.intro (tick_cmdIn s) hstep

/-- Settles O55: a digest's bytes are those of its number, and byte `k` of 32 has the weight `256^(31 - k)`. -/
theorem digestByteOrder : Obligations.DigestByteOrder := by
  intro d k hk
  have hbit : 248 - 8 * k = 8 * (DIGEST - 1 - k) := by simp only [DIGEST]; omega
  rw [hbit]
  exact beBytes_toNat_getD d DIGEST k hk

/-- Settles O5: with reset low a step in IDLE is the acceptance of the next descriptor. -/
theorem stepRunsDecodedCommand : Obligations.StepRunsDecodedCommand := by
  intro s d rest i hp hr hc hd
  have hstep : step s = .next (acceptState s) := by simp [step_eq, hr, hp, proceedFrom]
  rw [hstep, acceptState_cons hc, descriptorState, hd, exec_eq]

end Sys2Proof.Machine
end

section
/-! SUPPORT. The descriptor's fields (R50, R51): each read back from a descriptor laid out from them, the descriptor laid
out again from its fields, and what the decoder makes of them (R54, R58). -/

namespace Sys2Proof

/-! ### The layout -/

section
variable (op : BitVec 4) (len0 len1 len2 : Nat)

@[simp] theorem cmdField_descriptorOf : cmdField (descriptorOf op len0 len1 len2) = 0#28 ++ op :=
  BitVec.extractLsb'_append_eq_right

@[simp] theorem len0Field_descriptorOf : len0Field (descriptorOf op len0 len1 len2) = BitVec.ofNat 32 len0 := by
  rw [len0Field, descriptorOf, BitVec.extractLsb'_append_eq_of_le (by decide)]
  exact BitVec.extractLsb'_append_eq_right

@[simp] theorem len1Field_descriptorOf : len1Field (descriptorOf op len0 len1 len2) = BitVec.ofNat 32 len1 := by
  rw [len1Field, descriptorOf, BitVec.extractLsb'_append_eq_of_le (by decide),
    BitVec.extractLsb'_append_eq_of_le (by decide)]
  exact BitVec.extractLsb'_append_eq_right

@[simp] theorem len2Field_descriptorOf : len2Field (descriptorOf op len0 len1 len2) = BitVec.ofNat 32 len2 := by
  rw [len2Field, descriptorOf, BitVec.extractLsb'_append_eq_of_le (by decide),
    BitVec.extractLsb'_append_eq_of_le (by decide)]
  exact BitVec.extractLsb'_append_eq_left

@[simp] theorem opField_append (rsv : BitVec 28) : opField (rsv ++ op) = op := BitVec.extractLsb'_append_eq_right

@[simp] theorem rsvField_append (rsv : BitVec 28) : rsvField (rsv ++ op) = rsv := BitVec.extractLsb'_append_eq_left

end

/-- R51: `OP` is bits 3:0 of the descriptor. -/
theorem opField_cmdField (d : Descriptor) : opField (cmdField d) = d.extractLsb' 0 4 := by
  ext i hi
  simp [opField, cmdField]

/-- R51: `RSV` is bits 31:4 of the descriptor. -/
theorem rsvField_cmdField (d : Descriptor) : rsvField (cmdField d) = d.extractLsb' 4 28 := by
  ext i hi
  simp [rsvField, cmdField]

/-- R51: a command word with `RSV = 0` is laid out from its operation code. -/
theorem append_opField {cmd : BitVec 32} (h : rsvField cmd = 0) : 0#28 ++ opField cmd = cmd := by
  have hrsv : cmd.extractLsb' 4 28 = 0#28 := h
  have hjoin := BitVec.extractLsb'_append_extractLsb'_eq_extractLsb' (x := cmd) (len₂ := 28) (start₂ := 4)
    (start₁ := 0) (len₁ := 4) rfl
  rw [hrsv] at hjoin
  exact hjoin.trans BitVec.extractLsb'_eq_self

/-- R50: a descriptor is its four words, the last length field first. -/
theorem append_fields (d : Descriptor) : len2Field d ++ len1Field d ++ len0Field d ++ cmdField d = d := by
  have h21 : len2Field d ++ len1Field d = d.extractLsb' 64 64 :=
    BitVec.extractLsb'_append_extractLsb'_eq_extractLsb' rfl
  have h210 : d.extractLsb' 64 64 ++ len0Field d = d.extractLsb' 32 96 :=
    BitVec.extractLsb'_append_extractLsb'_eq_extractLsb' rfl
  have hall : d.extractLsb' 32 96 ++ cmdField d = d.extractLsb' 0 128 :=
    BitVec.extractLsb'_append_extractLsb'_eq_extractLsb' rfl
  rw [h21, h210, hall, BitVec.extractLsb'_eq_self]

/-- R50, R51: a descriptor with `RSV = 0` is laid out from its other fields. -/
theorem descriptorOf_fields {d : Descriptor} (h : rsvField (cmdField d) = 0) :
    descriptorOf (opField (cmdField d)) (len0Field d).toNat (len1Field d).toNat (len2Field d).toNat = d := by
  rw [descriptorOf, append_opField h, BitVec.ofNat_toNat, BitVec.ofNat_toNat, BitVec.ofNat_toNat, BitVec.setWidth_eq,
    BitVec.setWidth_eq, BitVec.setWidth_eq, append_fields]

/-! ### The decoder -/

/-- R52, R54, R58: which descriptors decode to a command, and to which. -/
theorem decode_eq_command_iff (d : Descriptor) (i : Instr) :
    decode d = .command i ↔ rsvField (cmdField d) = 0#28 ∧
      ((opField (cmdField d) = opInstantiate ∧
          i = .instantiate (len0Field d).toNat (len1Field d).toNat (len2Field d).toNat) ∨
        (opField (cmdField d) = opReseed ∧ len2Field d = 0#32 ∧
          i = .reseed (len0Field d).toNat (len1Field d).toNat) ∨
        (opField (cmdField d) = opGenerate ∧ len2Field d = 0#32 ∧
          i = .generate (len0Field d).toNat (len1Field d).toNat)) := by
  have hlen2 : (len2Field d).toNat ≠ 0 ↔ len2Field d ≠ 0#32 := not_congr (BitVec.toNat_inj (y := 0#32))
  have hir : opInstantiate ≠ opReseed := by decide
  have hig : opInstantiate ≠ opGenerate := by decide
  have hrg : opReseed ≠ opGenerate := by decide
  simp only [decode, hlen2]
  by_cases hrsv : rsvField (cmdField d) = 0#28
  · by_cases hi : opField (cmdField d) = opInstantiate
    · simp [hrsv, hi, hir, hig, eq_comm (a := i)]
    by_cases hr : opField (cmdField d) = opReseed
    · by_cases h2 : len2Field d = 0#32 <;> simp [hrsv, hr, hir.symm, hrg, h2, eq_comm (a := i)]
    by_cases hg : opField (cmdField d) = opGenerate
    · by_cases h2 : len2Field d = 0#32 <;> simp [hrsv, hg, hig.symm, hrg.symm, h2, eq_comm (a := i)]
    · simp [hrsv, hi, hr, hg]
  · simp [hrsv]

/-- R54: which descriptors are legal, by bit positions. -/
theorem exists_decode_iff (d : Descriptor) :
    (∃ i, decode d = .command i) ↔
      d.extractLsb' 4 28 = 0 ∧ (d.extractLsb' 0 4 = 1 ∨ d.extractLsb' 0 4 = 2 ∨ d.extractLsb' 0 4 = 3) ∧
        (d.extractLsb' 0 4 = 2 ∨ d.extractLsb' 0 4 = 3 → d.extractLsb' 96 32 = 0) := by
  simp only [decode_eq_command_iff, opField_cmdField, rsvField_cmdField, exists_and_left, exists_or, exists_eq, and_true,
    opInstantiate, opReseed, opGenerate, len2Field]
  refine and_congr_right fun _ => ⟨?_, ?_⟩
  · rintro (h | ⟨h, h2⟩ | ⟨h, h2⟩)
    · exact ⟨.inl h, fun h' => by simp [h] at h'⟩
    · exact ⟨.inr (.inl h), fun _ => h2⟩
    · exact ⟨.inr (.inr h), fun _ => h2⟩
  · rintro ⟨h | h | h, h2⟩
    · exact .inl h
    · exact .inr (.inl ⟨h, h2 (.inl h)⟩)
    · exact .inr (.inr ⟨h, h2 (.inr h)⟩)

/-! ### The well-formed commands -/

@[simp] theorem instantiate_wf (entLen nonceLen persLen : Nat) :
    (Instr.instantiate entLen nonceLen persLen).wf = true ↔
      entLen < 2 ^ 32 ∧ nonceLen < 2 ^ 32 ∧ persLen < 2 ^ 32 := by
  simp [Instr.wf, fits32, and_assoc]

@[simp] theorem reseed_wf (entLen addLen : Nat) :
    (Instr.reseed entLen addLen).wf = true ↔ entLen < 2 ^ 32 ∧ addLen < 2 ^ 32 := by
  simp [Instr.wf, fits32]

@[simp] theorem generate_wf (addLen n : Nat) :
    (Instr.generate addLen n).wf = true ↔ addLen < 2 ^ 32 ∧ n < 2 ^ 32 := by
  simp [Instr.wf, fits32]

end Sys2Proof
end

section
/-! SUPPORT. The three commands carried from ABSORB to their response when the payload is there, the engine answers and
the host attends (R89, R93, R97): the state each comes to. -/

namespace Sys2Proof.Machine

/-- R56, R57: what a delivered response's code is. -/
theorem deliversCode_of_responses {st : Status} {s t : State} (h : t.responses = s.responses ++ [st]) :
    DeliversCode st.code s t := by
  rw [DeliversCode, h, List.map_append, List.map_singleton]

/-! ### ABSORB -/

/-- R55: ABSORB with the payload at the front of data-in. -/
theorem absorb_payload {i : Instr} {s : State} {payload rest : List Byte} (next : List Byte → State → State)
    (hlen : payload.length = payloadLen i) (hd : s.dataIn = payload ++ rest) :
    absorb i [] s next = next payload { s with dataIn := rest } := by
  rw [absorb_enough i [] s next (by simp [hd, hlen])]
  simp [hd, ← hlen]

/-! ### INSTANTIATE and RESEED -/

/-- R31, R76: DERIVE_V of INSTANTIATE and RESEED to the response, the engine answering and the host taking it. -/
theorem fromDeriveV_seeded (M : List Byte) {s : State} (he : s.engineAnswers = true) (hr : s.rspReady = true) :
    fromDeriveV (DfRun.start M) s = seeded M s.dataIn s := by
  rw [fromDeriveV_start M s he, commitAndRespond, respond_taken _ _ (by exact hr)]
  simp [seeded, commit, State.hashed, seedingRequests, hashDf55Requests, constantSeed]

/-! ### GENERATE -/

/-- R101: `Inc^j` of `Inc(v)`. -/
theorem incTimes_inc (j : Nat) (v : SeedVal) : incTimes j (inc v) = incTimes (j + 1) v := by
  induction j with
  | zero => rfl
  | succ j ih => exact congrArg inc ih

/-- R76, R101: the loop hashes `temp` and its successors, in order. -/
theorem loopMessages_eq (turns : Nat) (temp : SeedVal) :
    loopMessages turns temp = (List.range turns).map fun j => seedBytes (incTimes j temp) := by
  induction turns generalizing temp with
  | zero => rfl
  | succ turns ih =>
    rw [loopMessages, ih, List.range_succ_eq_map, List.map_cons, List.map_map]
    simp only [incTimes_inc]
    rfl

/-- R101, R104: the loop's bytes are those of its blocks, cut at the number asked for. -/
theorem loopBytes_eq (turns : Nat) (temp : SeedVal) (left : Nat) :
    loopBytes turns temp left = ((List.range turns).flatMap (outputBlockAt temp)).take left := by
  induction turns generalizing temp left with
  | zero => simp [loopBytes]
  | succ turns ih =>
    have hrest : (fun j => outputBlockAt temp (j + 1)) = outputBlockAt (inc temp) := by
      funext j
      rw [outputBlockAt, outputBlockAt, incTimes_inc]
    have hlen : (outputBlockAt temp 0).length = DIGEST := digestBytes_length _
    have hblock : (digestBytes (SHA256 (seedBytes temp))).take (min left DIGEST) = (outputBlockAt temp 0).take left := by
      rw [← List.take_take, List.take_of_length_le (digestBytes_length _).le]
      rfl
    rw [loopBytes, ih, hblock, List.range_succ_eq_map, List.flatMap_cons, List.flatMap_map, List.take_append, hlen, hrest]

/-- R102: GEN_H, the engine answering. -/
theorem fromGenH_answered (vw : SeedVal) {s : State} (he : s.engineAnswers = true) :
    fromGenH vw s =
      commitAndRespond (.advance (finalSum vw (SHA256 (finalMessage vw)) s.C s.RC)) (s.hashed [finalMessage vw]) := by
  simp [fromGenH, he, hashRequest_hashed]

theorem outBytes_nil (s : State) : outBytes [] s = s := by simp [outBytes]

/-- R101: GEN_OUT from its start, the engine answering and the host taking every byte. -/
theorem fromGenOut_attended (vw : SeedVal) (n : Nat) {s : State} (he : s.engineAnswers = true)
    (ho : s.outReady = true) :
    fromGenOut vw vw [] n s = fromGenH vw (outBytes (generateOutput vw n)
      (s.hashed ((List.range (blockCount n)).map fun j => seedBytes (incTimes j vw)))) := by
  have hloop : fromGenOut vw vw [] n s = fromGenH vw (outputLoop (blockCount n) vw n s) := by
    by_cases hn : n = 0
    · subst hn
      simp [fromGenOut, outBytes_nil, blockCount, outputLoop, DIGEST]
    · simp [fromGenOut, outBytes_nil, hn, he, ho]
  rw [hloop, outputLoop_eq, loopMessages_eq, loopBytes_eq]
  rfl

/-- R99: GEN_W, visited with an additional input only (R100), the engine answering. -/
theorem fromGenW_answered {add : List Byte} (h : add ≠ []) (n : Nat) {s : State} (he : s.engineAnswers = true) :
    fromGenW add n s = fromGenOut (mixedV s.V add) (mixedV s.V add) [] n (s.hashed [additionalMessage s.V add]) := by
  simp [fromGenW, h, he, mixedV, hashRequest_hashed]

/-- R99, R100: GENERATE after ABSORB, the engine answering: the additional input, if any, is hashed into `Vw`. -/
theorem startGenerate_answered (add : List Byte) (n : Nat) {s : State} (he : s.engineAnswers = true) :
    startGenerate add n s = fromGenOut (mixedV s.V add) (mixedV s.V add) [] n
      (s.hashed (if add = [] then [] else [additionalMessage s.V add])) := by
  by_cases h : add = []
  · simp [startGenerate, h, mixedV, hashed_nil]
  · simp [startGenerate, h, fromGenW_answered h n he]

/-- R97: GENERATE after ABSORB to the response, the engine and the host attending. -/
theorem startGenerate_generated (add : List Byte) (n : Nat) {s : State} (h : Attended s) :
    startGenerate add n s = generated add s.dataIn n s := by
  obtain ⟨he, ho, hr⟩ := h
  simp only [startGenerate_answered, fromGenOut_attended, fromGenH_answered, commitAndRespond, respond_taken, he, ho, hr,
    hashed_engineAnswers, hashed_outReady, hashed_rspReady, outBytes_engineAnswers, outBytes_rspReady,
    commit_advance_rspReady]
  simp [generated, commit, State.hashed, outBytes, generateRequests, blockCount, DIGEST, finalSum, finalMessage,
    counterBytes, hr]

end Sys2Proof.Machine
end

section
/-! SUPPORT. How a command ends (R46, R56): it waits with nothing delivered, or it comes to one response, and what the host
does with the response changes nothing before it. -/

namespace Sys2Proof.Machine

/-- R37, R56: the response channel's ready line driven to `b`. -/
def State.rspLine (b : Bool) (s : State) : State := { s with rspReady := b }

@[simp] theorem rspLine_V (b : Bool) (s : State) : (s.rspLine b).V = s.V := rfl
@[simp] theorem rspLine_C (b : Bool) (s : State) : (s.rspLine b).C = s.C := rfl
@[simp] theorem rspLine_RC (b : Bool) (s : State) : (s.rspLine b).RC = s.RC := rfl
@[simp] theorem rspLine_dataIn (b : Bool) (s : State) : (s.rspLine b).dataIn = s.dataIn := rfl
@[simp] theorem rspLine_outReady (b : Bool) (s : State) : (s.rspLine b).outReady = s.outReady := rfl
@[simp] theorem rspLine_engineAnswers (b : Bool) (s : State) : (s.rspLine b).engineAnswers = s.engineAnswers := rfl

@[simp] theorem hashed_rspLine (ms : List (List Byte)) (b : Bool) (s : State) :
    (s.rspLine b).hashed ms = (s.hashed ms).rspLine b := rfl

@[simp] theorem outBytes_rspLine (bs : List Byte) (b : Bool) (s : State) :
    outBytes bs (s.rspLine b) = (outBytes bs s).rspLine b := rfl

@[simp] theorem goto_rspLine (p : Phase) (b : Bool) (s : State) : (s.rspLine b).goto p = (s.goto p).rspLine b := rfl

@[simp] theorem outputLoop_rspLine (turns : Nat) (temp : SeedVal) (left : Nat) (b : Bool) (s : State) :
    outputLoop turns temp left (s.rspLine b) = (outputLoop turns temp left s).rspLine b := by
  rw [outputLoop_eq, outputLoop_eq]
  rfl

@[simp] theorem commit_rspLine (w : Writes) (b : Bool) (s : State) :
    commit w (s.rspLine b) = (commit w s).rspLine b := by
  cases w <;> rfl

@[simp] theorem commit_responses (w : Writes) (s : State) : (commit w s).responses = s.responses := by
  cases w <;> rfl

/-- R46, R56: from `s` the operation `f` comes, with nothing delivered, to a wait outside IDLE or to one response; which
of the two, and in what state, is the same whether the host takes a response or not. -/
def Ends (f : State → State) (s : State) : Prop :=
  ∃ r : State, r.responses = s.responses ∧
    ((r.phase ≠ .idle ∧ ∀ b, f (s.rspLine b) = r.rspLine b) ∨
      ∃ st : Status, ∀ b, f (s.rspLine b) = respond st (r.rspLine b))

/-- The operation waits in a state of which only the ready line is the host's. -/
theorem Ends.waits {f : State → State} {s : State} (r : State) (hr : r.responses = s.responses) (hp : r.phase ≠ .idle)
    (hf : ∀ b, f (s.rspLine b) = r.rspLine b) : Ends f s := ⟨r, hr, .inl ⟨hp, hf⟩⟩

/-- The operation goes on as `g` from a state reached with nothing delivered. -/
theorem Ends.continues {f g : State → State} {s : State} (r : State) (hr : r.responses = s.responses)
    (hf : ∀ b, f (s.rspLine b) = g (r.rspLine b)) : Ends g r → Ends f s
  | ⟨u, hu, .inl ⟨hp, hg⟩⟩ => ⟨u, hu.trans hr, .inl ⟨hp, fun b => (hf b).trans (hg b)⟩⟩
  | ⟨u, hu, .inr ⟨st, hg⟩⟩ => ⟨u, hu.trans hr, .inr ⟨st, fun b => (hf b).trans (hg b)⟩⟩

/-- R56: with the line as it stands, the operation ends in IDLE with one response more, or waits with none. -/
theorem Ends.cases {f : State → State} {s : State} (h : Ends f s) :
    ((f s).phase = .idle ∧ ∃ st, (f s).responses = s.responses ++ [st]) ∨
      ((f s).phase ≠ .idle ∧ (f s).responses = s.responses) := by
  obtain ⟨r, hr, ⟨hp, hf⟩ | ⟨st, hf⟩⟩ := h
  · have hfs : f s = r.rspLine s.rspReady := hf s.rspReady
    rw [hfs]
    exact .inr ⟨hp, hr⟩
  · have hfs : f s = respond st (r.rspLine s.rspReady) := hf s.rspReady
    rcases respond_cases st (r.rspLine s.rspReady) with ⟨-, h⟩ | ⟨-, h⟩ <;> rw [hfs, h]
    · exact .inl ⟨rfl, st, congrArg (· ++ [st]) hr⟩
    · exact .inr ⟨Phase.noConfusion, hr⟩

/-! ### The control states -/

theorem ends_respond (st : Status) (s : State) : Ends (respond st) s := ⟨s, rfl, .inr ⟨st, fun _ => rfl⟩⟩

theorem ends_commitAndRespond (w : Writes) (s : State) : Ends (commitAndRespond w) s :=
  .continues (commit w s) (commit_responses w s) (fun b => by rw [commitAndRespond, commit_rspLine])
    (ends_respond .ok _)

theorem ends_fromDeriveC (newV : SeedVal) (df : DfRun) (s : State) : Ends (fromDeriveC newV df) s := by
  by_cases hw : (df.unfinished && !s.engineAnswers) = true
  · exact .waits (s.goto (.deriveC newV df)) rfl Phase.noConfusion fun b => by simp [fromDeriveC, hw]
  · refine .continues (s.hashed (dfMessages (dfTurns SEEDLEN) df)) rfl (fun b => ?_)
      (ends_commitAndRespond (.seed newV (dfRequests (dfTurns SEEDLEN) df s).1.result) _)
    simp [fromDeriveC, hw, dfRequests_state, dfRequests_fst _ _ (s.rspLine b) s]

theorem ends_fromDeriveV (df : DfRun) (s : State) : Ends (fromDeriveV df) s := by
  by_cases hw : (df.unfinished && !s.engineAnswers) = true
  · exact .waits (s.goto (.deriveV df)) rfl Phase.noConfusion fun b => by simp [fromDeriveV, hw]
  · refine .continues (s.hashed (dfMessages (dfTurns SEEDLEN) df)) rfl (fun b => ?_)
      (ends_fromDeriveC (dfRequests (dfTurns SEEDLEN) df s).1.result
        (DfRun.start (constantSeed (dfRequests (dfTurns SEEDLEN) df s).1.result)) _)
    simp [fromDeriveV, hw, dfRequests_state, dfRequests_fst _ _ (s.rspLine b) s]

theorem ends_fromGenH (vw : SeedVal) (s : State) : Ends (fromGenH vw) s := by
  by_cases he : s.engineAnswers = true
  · exact .continues (s.hashed [finalMessage vw]) rfl (fun b => fromGenH_answered vw (s := s.rspLine b) he)
      (ends_commitAndRespond (.advance (finalSum vw (SHA256 (finalMessage vw)) s.C s.RC)) _)
  · exact .waits (s.goto (.genH vw)) rfl Phase.noConfusion fun b => by simp [fromGenH, he]

theorem ends_fromGenOut (vw temp : SeedVal) (pending : List Byte) (left : Nat) (s : State) :
    Ends (fromGenOut vw temp pending left) s := by
  by_cases hp : (!pending.isEmpty && !s.outReady) = true
  · exact .waits (s.goto (.genOut vw temp pending left)) rfl Phase.noConfusion fun b => by simp [fromGenOut, hp]
  by_cases hleft : left = 0
  · exact .continues (outBytes pending s) rfl (fun b => by simp [fromGenOut, hp, hleft]) (ends_fromGenH vw _)
  by_cases he : s.engineAnswers = true
  · by_cases ho : s.outReady = true
    · exact .continues (outputLoop (blockCount left) temp left (outBytes pending s)) (by simp [outputLoop_eq])
        (fun b => by simp [fromGenOut, hleft, he, ho]) (ends_fromGenH vw _)
    · obtain rfl : pending = [] := by simpa [ho] using hp
      exact .waits ((outputBlock temp left (outBytes [] s)).2.goto
          (.genOut vw (inc temp) (outputBlock temp left (outBytes [] s)).1 (left - DIGEST))) rfl Phase.noConfusion
        fun b => by simp [fromGenOut, hleft, he, ho, outputBlock_eq]
  · exact .waits ((outBytes pending s).goto (.genOut vw temp [] left)) rfl Phase.noConfusion
      fun b => by simp [fromGenOut, hp, hleft, he]

theorem ends_fromGenW {add : List Byte} (h : add ≠ []) (n : Nat) (s : State) : Ends (fromGenW add n) s := by
  by_cases he : s.engineAnswers = true
  · exact .continues (s.hashed [additionalMessage s.V add]) rfl (fun b => fromGenW_answered h n (s := s.rspLine b) he)
      (ends_fromGenOut (mixedV s.V add) (mixedV s.V add) [] n _)
  · exact .waits (s.goto (.genW add n)) rfl Phase.noConfusion fun b => by simp [fromGenW, he]

/-! ### The commands -/

/-- R27: the control states that can follow ABSORB. -/
theorem ends_afterAbsorb (i : Instr) (payload : List Byte) (s t : State) :
    Ends (proceedFrom (afterAbsorb i payload s)) t := by
  rcases afterAbsorb_cases i payload s with ⟨M, hp⟩ | ⟨add, n, hadd, hp⟩ | ⟨n, hp⟩ <;> rw [hp]
  · exact ends_fromDeriveV _ t
  · exact ends_fromGenW hadd n t
  · exact ends_fromGenOut _ _ _ _ t

theorem ends_resumeAbsorb (i : Instr) (got : List Byte) (s : State) : Ends (resumeAbsorb i got) s := by
  by_cases h : payloadLen i - got.length ≤ s.dataIn.length
  · refine .continues (inBytes (payloadLen i - got.length) s).2 rfl (fun b => ?_)
      (ends_afterAbsorb i (got ++ s.dataIn.take (payloadLen i - got.length)) s _)
    have hafter (payload : List Byte) : afterAbsorb i payload (s.rspLine b) = afterAbsorb i payload s := by
      cases i <;> rfl
    rw [resumeAbsorb_enough i got (s.rspLine b) h, hafter]
    rfl
  · exact .waits { s with dataIn := [], phase := .absorb i (got ++ s.dataIn) } rfl Phase.noConfusion
      fun b => resumeAbsorb_waits i got (s.rspLine b) (Nat.not_le.mp h)

theorem ends_execState (i : Instr) (s : State) : Ends (execState i) s := by
  have hpre (b : Bool) : precondition i (s.rspLine b) = precondition i s := precondition_congr i _ _ rfl rfl rfl
  cases h : precondition i s with
  | some e => exact .continues s rfl (fun b => by rw [execState, hpre, h]; rfl) (ends_respond (.error e) s)
  | none => exact .continues s rfl (fun b => by rw [execState, hpre, h]) (ends_resumeAbsorb i [] s)

theorem ends_descriptorState (d : Descriptor) (s : State) : Ends (descriptorState d) s := by
  cases h : decode d with
  | command i => exact .continues s rfl (fun b => by rw [descriptorState, h]) (ends_execState i s)
  | illegal why =>
    exact .continues s rfl (fun b => by rw [descriptorState, h]; rfl) (ends_respond (.error .illegalCommand) s)

/-! ### A step -/

/-- R45: with reset low a step in IDLE accepts the descriptor presented. -/
theorem step_accepts {s : State} {d : Descriptor} {rest : List Descriptor} (hp : s.phase = .idle)
    (hr : s.rst = false) (hc : s.cmdIn = d :: rest) :
    step s = .next (descriptorState d { s with cmdIn := rest }) := by
  simp [step_eq, hr, hp, proceedFrom, acceptState_cons hc]

/-- R56: a step in RESPOND with the response not taken. -/
theorem step_respond_waits {s : State} {st : Status} (hp : s.phase = .respond st) (hr : s.rst = false)
    (hn : s.rspReady = false) : step s = .next s := by
  have hsame : respond st s = s := by rw [respond_waits st s hn, ← hp]
  simp [step_eq, hr, hp, proceedFrom, hsame]

/-- R46, R56: a step in RESPOND with the response taken. -/
theorem step_respond_taken {s : State} {st : Status} (hp : s.phase = .respond st) (hr : s.rst = false)
    (hy : s.rspReady = true) : step s = .next { s with responses := s.responses ++ [st], phase := .idle } := by
  simp [step_eq, hr, hp, proceedFrom, respond_taken st s hy]

end Sys2Proof.Machine
end

section
/-! SUPPORT. The statements of the family of 30_encoding.md, settled: the descriptor and its decoder, the results of the
three commands, the response. -/

namespace Sys2Proof.Machine

/-! ### Encoding -/

/-- Settles O1: each field is read back from the layout, and a count that fits 32 bits is its field's number. -/
theorem decodeEncodeRoundTrip : Obligations.DecodeEncodeRoundTrip := by
  intro i hwf
  rw [decode_eq_command_iff]
  cases i with
  | instantiate e n p =>
    obtain ⟨he, hn, hp⟩ := (instantiate_wf e n p).mp hwf
    simp [encode]
    omega
  | reseed e a =>
    obtain ⟨he, ha⟩ := (reseed_wf e a).mp hwf
    simp [encode]
    omega
  | generate a n =>
    obtain ⟨ha, hn⟩ := (generate_wf a n).mp hwf
    simp [encode]
    omega

/-- Settles O2: a legal descriptor has `RSV = 0`, so it is laid out from its other fields, and the command's counts are
numbers of 32-bit fields. -/
theorem encodeDecodeRoundTrip : Obligations.EncodeDecodeRoundTrip := by
  intro d i h
  obtain ⟨hrsv, hi⟩ := (decode_eq_command_iff d i).mp h
  have hlayout := descriptorOf_fields hrsv
  rcases hi with ⟨hop, rfl⟩ | ⟨hop, hlen2, rfl⟩ | ⟨hop, hlen2, rfl⟩
  · exact ⟨(instantiate_wf _ _ _).mpr ⟨BitVec.isLt _, BitVec.isLt _, BitVec.isLt _⟩, by rwa [hop] at hlayout⟩
  · exact ⟨(reseed_wf _ _).mpr ⟨BitVec.isLt _, BitVec.isLt _⟩, by rwa [hop, hlen2] at hlayout⟩
  · exact ⟨(generate_wf _ _).mpr ⟨BitVec.isLt _, BitVec.isLt _⟩, by rwa [hop, hlen2] at hlayout⟩

/-- Settles O3: the decoder's condition is the one written out from bit positions, and the step follows the decoder. -/
theorem illegalDescriptorsRejected : Obligations.IllegalDescriptorsRejected := by
  intro s d rest hp hr hrsp hc
  rw [← exists_decode_iff]
  refine ⟨fun ⟨i, hi⟩ => ⟨i, hi, stepRunsDecodedCommand s d rest i hp hr hc hi⟩, fun hno =>
    ⟨?_, deliversCode_of_responses (st := .error .illegalCommand) rfl⟩⟩
  rw [step_accepts hp hr hc, descriptorState]
  cases hd : decode d with
  | command i => exact absurd ⟨i, hd⟩ hno
  | illegal why => exact congrArg _ (respond_taken _ { s with cmdIn := rest } hrsp)

/-- Settles O4: the decoder run on the six words. -/
theorem decodeExampleWords : Obligations.DecodeExampleWords := by
  unfold Obligations.DecodeExampleWords
  decide

/-! ### The commands -/

/-- Settles O10: the checks pass, the payload is on data-in and is the seed material, and the two Hash_df calls run to the
commit. -/
theorem instantiateResult : Obligations.InstantiateResult := by
  intro s e no p rest hacc hd he hr
  have hpass : precondition (.instantiate e.length no.length p.length) s = none :=
    (instantiateError_none s.cfg _ _ _).mpr hacc
  refine ⟨?_, deliversCode_of_responses (st := .ok) rfl⟩
  rw [exec_accepts _ _ hpass, resumeAbsorb, absorbInstantiate,
    absorb_payload (payload := e ++ no ++ p) _ (by simp [payloadLen]; omega) hd, instantiateSeed_eq]
  exact congrArg _ (fromDeriveV_seeded (s := { s with dataIn := rest }) _ he hr)

/-- Settles O11: as for INSTANTIATE, the seed material being made with the `V` that stands. -/
theorem reseedResult : Obligations.ReseedResult := by
  intro s e a rest hacc hd he hr
  have hpass : precondition (.reseed e.length a.length) s = none := (reseedError_none s.cfg _ _).mpr hacc
  refine ⟨?_, deliversCode_of_responses (st := .ok) rfl⟩
  rw [exec_accepts _ _ hpass, resumeAbsorb, absorbReseed,
    absorb_payload (payload := e ++ a) _ (by simp [payloadLen]) hd, reseedSeed_eq]
  exact congrArg _ (fromDeriveV_seeded (s := { s with dataIn := rest }) _ he hr)

/-- Settles O12: the checks pass, the payload is the additional input, and the output loop runs to the commit. -/
theorem generateResult : Obligations.GenerateResult := by
  intro s a rest n ⟨⟨hinst, hrc⟩, hn, ha⟩ hd hatt
  have hpass : precondition (.generate a.length n) s = none :=
    (generateError_none s.cfg _ _ _ _).mpr ⟨hinst, hrc, hn, ha⟩
  refine ⟨?_, deliversCode_of_responses (st := .ok) rfl⟩
  rw [exec_accepts _ _ hpass, resumeAbsorb, absorbGenerate, absorb_payload (payload := a) _ rfl hd, payloadField_all]
  exact congrArg _ (startGenerate_generated (s := { s with dataIn := rest }) a n hatt)

/-! ### The step -/

/-- Settles O7: every step answers the state `advance` names. -/
theorem stepAlwaysAnswersNext : Obligations.StepAlwaysAnswersNext := fun s => ⟨advance s, step_eq_advance s⟩

/-! ### The response -/

/-- Settles O30: the command ends the same way whether the response is taken or not, so it ends in the response; one not
taken is held with all else done, and is delivered once the host takes it. -/
theorem untakenResponseWaits : Obligations.UntakenResponseWaits := by
  intro i s t u ht hu hidle hrst
  rw [exec_eq, Host.Outcome.next.injEq] at ht hu
  obtain ⟨r, hresp, ⟨hp, hf⟩ | ⟨st, hf⟩⟩ := ends_execState i s
  · exact absurd (((congrArg State.phase (hf true)).symm.trans (congrArg State.phase hu)).trans hidle) hp
  · have hlow : r.rst = false := by
      have hkept := (execState_sameLines i (s.rspLine true)).rst
      rw [hf true, respond_rst] at hkept
      exact hkept.trans hrst
    obtain rfl : t = { r with rspReady := false, phase := .respond st } :=
      ht.symm.trans ((hf false).trans (respond_waits st _ rfl))
    obtain rfl : u = { r with rspReady := true, responses := r.responses ++ [st], phase := .idle } :=
      hu.symm.trans ((hf true).trans (respond_taken st _ rfl))
    exact ⟨rfl, hresp, rfl, rfl, rfl, rfl, step_respond_waits rfl hlow rfl, step_respond_taken rfl hlow rfl⟩

/-- Settles O40: the step that accepts a descriptor is the command's run from there. -/
theorem oneResponsePerCommand : Obligations.OneResponsePerCommand := by
  intro s t hready hcmd hstep
  obtain ⟨hp, hr⟩ := (cmdReady_iff s).mp hready
  obtain ⟨d, rest, hc⟩ := List.exists_cons_of_ne_nil hcmd
  rw [step_accepts hp hr hc, Host.Outcome.next.injEq] at hstep
  subst hstep
  exact (ends_descriptorState d { s with cmdIn := rest }).cases

end Sys2Proof.Machine
end

section
/-! SUPPORT. The engine's contract over any pieces (R64), the length and the form of Hash_df (R69, R73, R75). -/

namespace Sys2Proof.Machine

/-! ### The engine -/

/-- R63: `update` after `update` absorbs the pieces joined. -/
theorem foldl_update (pieces : List (List Byte)) (e : HashEngine) :
    pieces.foldl HashEngine.update e = ⟨e.absorbed ++ pieces.flatten⟩ := by
  induction pieces generalizing e with
  | nil => simp
  | cons piece pieces ih => simp [ih, HashEngine.update]

/-! ### The loop of Hash_df -/

/-- R69, R73: the loop adds no byte past `n`, and all of them with a turn for each 32 bytes missing. -/
theorem dfLoop_length (n : Nat) (M : List Byte) (fuel : Nat) (counter : Byte) (out : List Byte)
    (hle : out.length ≤ n) (hfuel : n ≤ out.length + DIGEST * fuel) : (dfLoop n M fuel counter out).length = n := by
  induction fuel generalizing counter out with
  | zero => exact Nat.le_antisymm hle hfuel
  | succ fuel ih =>
    by_cases h : out.length < n
    · have hturn (d : Digest) : (out ++ (digestBytes d).take (min (n - out.length) DIGEST)).length =
          min n (out.length + DIGEST) := by
        rw [List.length_append, List.length_take, digestBytes_length]
        omega
      rw [dfLoop_more n M fuel counter out h]
      rw [Nat.mul_succ] at hfuel
      exact ih _ _ (by rw [hturn]; exact Nat.min_le_left _ _) (by rw [hturn]; omega)
    · rw [dfLoop_done n M _ counter out (Nat.not_lt.mp h)]
      exact Nat.le_antisymm hle (Nat.not_lt.mp h)

/-- R69: as many turns as 32-byte blocks, the last one cut, make `n` bytes. -/
theorem dfLoop_start_length (n : Nat) (M : List Byte) : (dfLoop n M (dfTurns n) 0x01 []).length = n :=
  dfLoop_length n M (dfTurns n) 0x01 [] (Nat.zero_le n) (by simp only [dfTurns, DIGEST, List.length_nil]; omega)

/-! ### Hash_df for 55 bytes -/

/-- R70, R71: for 55 bytes the length field is that of 440 bits. -/
theorem dfMessage_seed (counter : Byte) (M : List Byte) :
    dfMessage SEEDLEN counter M = [counter, 0x00, 0x00, 0x01, 0xb8] ++ M := rfl

/-- R75: for 55 bytes the loop gives a whole digest and 23 bytes of the next one. -/
theorem dfLoop_seed (M : List Byte) :
    dfLoop SEEDLEN M (dfTurns SEEDLEN) 0x01 [] =
      digestBytes (SHA256 (dfMessage SEEDLEN 0x01 M)) ++ (digestBytes (SHA256 (dfMessage SEEDLEN 0x02 M))).take 23 := by
  have hfirst : (digestBytes (SHA256 (dfMessage SEEDLEN 0x01 M))).take DIGEST =
      digestBytes (SHA256 (dfMessage SEEDLEN 0x01 M)) := List.take_of_length_le (digestBytes_length _).le
  rw [dfTurns_seed, dfLoop_more _ _ _ _ _ (by decide : ([] : List Byte).length < SEEDLEN)]
  change dfLoop SEEDLEN M 1 0x02 ((digestBytes (SHA256 (dfMessage SEEDLEN 0x01 M))).take DIGEST) = _
  rw [hfirst, dfLoop_more _ _ _ _ _ (by rw [digestBytes_length]; decide), digestBytes_length]
  rfl

/-- R21, R75: the register value `hashDf55` is the loop's 55 bytes. -/
theorem seedBytes_hashDf55 (M : List Byte) :
    seedBytes (hashDf55 M) = dfLoop SEEDLEN M (dfTurns SEEDLEN) 0x01 [] :=
  seedBytes_seedOfBytes _ (dfLoop_start_length SEEDLEN M)

/-- R75: a call for 55 bytes is defined, and its value is that of `hashDf55`. -/
theorem hashDf_seed (M : List Byte) : (hashDf M [] [] [] 55).toOption = some (seedBytes (hashDf55 M)) := by
  have hn : 55 ≤ HASH_DF_MAX := by decide
  simp only [hashDf, if_pos hn, List.append_nil, seedBytes_hashDf55]
  rfl

end Sys2Proof.Machine
end

section
/-! SUPPORT. Commands carried to their end with the payload taken from the front of data-in, and the number of hash
requests they make (R76, R77). -/

namespace Sys2Proof.Machine

/-- R89, R93: an accepted command whose ABSORB leads to DERIVE_V, its payload there, the engine and the host attending. -/
theorem exec_seeded {i : Instr} {s : State} {M : List Byte} (hpass : precondition i s = none)
    (hthere : payloadLen i ≤ s.dataIn.length)
    (hM : afterAbsorb i (s.dataIn.take (payloadLen i)) s = .deriveV (DfRun.start M)) (he : s.engineAnswers = true)
    (hr : s.rspReady = true) : exec i s = .next (seeded M (s.dataIn.drop (payloadLen i)) s) := by
  have habsorb : resumeAbsorb i [] s =
      fromDeriveV (DfRun.start M) { s with dataIn := s.dataIn.drop (payloadLen i) } := by
    rw [resumeAbsorb_enough i [] s hthere]
    exact congrArg (proceedFrom · _) hM
  rw [exec_accepts i s hpass, habsorb]
  exact congrArg _ (fromDeriveV_seeded (s := { s with dataIn := s.dataIn.drop (payloadLen i) }) M he hr)

/-- R97: an accepted GENERATE, its additional input there. -/
theorem exec_generated {s : State} {addLen n : Nat} (hacc : GenerateAccepted s addLen n)
    (hthere : addLen ≤ s.dataIn.length) (hatt : Attended s) :
    exec (.generate addLen n) s = .next (generated (s.dataIn.take addLen) (s.dataIn.drop addLen) n s) := by
  have hlen : (s.dataIn.take addLen).length = addLen := List.length_take_of_le hthere
  have hres := generateResult s (s.dataIn.take addLen) (s.dataIn.drop addLen) n (by rwa [hlen])
    (List.take_append_drop _ _).symm hatt
  rw [hlen] at hres
  exact hres.1

/-- R76, R77: INSTANTIATE and RESEED make four requests. -/
theorem seeded_hashPort_length (M rest : List Byte) (s : State) :
    (seeded M rest s).hashPort.length = s.hashPort.length + 4 :=
  List.length_append

/-- R76, R77: GENERATE makes one for each block, one at the end, and one for an additional input. -/
theorem generateRequests_length (V : SeedVal) (add : List Byte) (n : Nat) :
    (generateRequests V add n).length = (n + 31) / 32 + 1 + (if add = [] then 0 else 1) := by
  by_cases h : add = [] <;> simp [generateRequests, h]

/-- R77: those of GENERATE by the length its descriptor gives, the additional input being there. -/
theorem generated_hashPort_length {s : State} {addLen : Nat} (rest : List Byte) (n : Nat)
    (h : addLen ≤ s.dataIn.length) :
    (generated (s.dataIn.take addLen) rest n s).hashPort.length =
      s.hashPort.length + ((n + 31) / 32 + 1 + (if addLen = 0 then 0 else 1)) := by
  have hempty : s.dataIn.take addLen = [] ↔ addLen = 0 := by
    rw [← List.length_eq_zero_iff, List.length_take_of_le h]
  simp only [generated, List.length_append, generateRequests_length, hempty]

end Sys2Proof.Machine
end

section
/-! SUPPORT. The control states in which the sequencer waits for the engine (R68), and the first of them that an accepted
command comes to. -/

namespace Sys2Proof.Machine

/-- R68: at control state `p` a hash request is due: while the engine does not answer, neither a step nor a transition
leads on. -/
def RequestDue (p : Phase) : Prop :=
  ∀ s : State, s.engineAnswers = false → proceedFrom p s = s.goto p ∧ tickFrom p s = s

theorem requestDue_deriveV (M : List Byte) : RequestDue (.deriveV (DfRun.start M)) := by
  intro s he
  have hu : (DfRun.start M).unfinished = true := rfl
  exact ⟨fromDeriveV_waits M s he, by simp [tickFrom, tickDeriveV, hu, he]⟩

theorem requestDue_genW (add : List Byte) (n : Nat) : RequestDue (.genW add n) :=
  fun s he => ⟨by simp [proceedFrom, fromGenW, he], by simp [tickFrom, tickGenW, he]⟩

theorem requestDue_genOut (vw temp : SeedVal) {left : Nat} (h : left ≠ 0) : RequestDue (.genOut vw temp [] left) :=
  fun s he => ⟨by simp [proceedFrom, fromGenOut, outBytes_nil, h, he], by simp [tickFrom, tickGenOut, h, he]⟩

theorem requestDue_genH (vw : SeedVal) : RequestDue (.genH vw) :=
  fun s he => ⟨by simp [proceedFrom, fromGenH, he], by simp [tickFrom, tickGenH, he]⟩

/-- R68, R116: a state in which a request is due stays as it is. -/
theorem RequestDue.stays {s : State} (h : RequestDue s.phase) (he : s.engineAnswers = false) (hr : s.rst = false) :
    step s = .next s ∧ tick s = s := by
  obtain ⟨hproceed, htick⟩ := h s he
  constructor
  · rw [step_eq, if_neg (by simp [hr]), hproceed]
    rfl
  · rw [tick_of_rst_low hr, htick]

/-- R27: where GENERATE, its additional input there, makes its first request. -/
theorem firstRequestPhase_generate (addLen n : Nat) {s : State} (h : addLen ≤ s.dataIn.length) :
    firstRequestPhase (.generate addLen n) s =
      if 0 < addLen then .genW (s.dataIn.take addLen) n else if 0 < n then .genOut s.V s.V [] n else .genH s.V := by
  have hfield : payloadField (s.dataIn.take addLen) 0 addLen = s.dataIn.take addLen := by simp [payloadField]
  cases addLen with
  | zero =>
    cases n with
    | zero => rfl
    | succ n => simp [firstRequestPhase, afterAbsorb, payloadField]
  | succ k =>
    have hne : s.dataIn ≠ [] := by rintro hnil; simp [hnil] at h
    simp [firstRequestPhase, afterAbsorb, payloadLen, hfield, hne]

theorem requestDue_firstRequestPhase {i : Instr} {s : State} (h : payloadLen i ≤ s.dataIn.length) :
    RequestDue (firstRequestPhase i s) := by
  cases i with
  | instantiate e n p => exact requestDue_deriveV _
  | reseed e a => exact requestDue_deriveV _
  | generate a n =>
    rw [firstRequestPhase_generate a n h]
    split_ifs with ha hn
    · exact requestDue_genW _ n
    · exact requestDue_genOut _ _ hn.ne'
    · exact requestDue_genH _

/-- R27: ABSORB leads to the first request; GEN_OUT with no byte to make goes on to GEN_H. -/
theorem proceedFrom_afterAbsorb (i : Instr) (s t : State) :
    proceedFrom (afterAbsorb i (s.dataIn.take (payloadLen i)) s) t = proceedFrom (firstRequestPhase i s) t := by
  by_cases h : i = .generate 0 0
  · subst h
    show fromGenOut s.V s.V [] 0 t = fromGenH s.V t
    simp [fromGenOut, outBytes_nil]
  · rw [firstRequestPhase]
    exact h

end Sys2Proof.Machine
end

section
/-! SUPPORT. The statements of the family of 40_hash_df.md, settled: the engine's contract, Hash_df, the hash requests of
the commands. -/

namespace Sys2Proof.Machine

/-! ### Hash_df -/

/-- Settles O56: the loop's length, and the refusal above the limit. -/
theorem hashDfLength : Obligations.HashDfLength := by
  intro s1 s2 s3 s4 n
  constructor <;> intro h
  · exact ⟨_, if_pos h, dfLoop_start_length n _⟩
  · exact if_neg (Nat.not_le.mpr h)

/-- Settles O57: Hash_df reads its inputs only as their concatenation. -/
theorem hashDfSegments : Obligations.HashDfSegments := by
  intro a b c d n
  simp only [hashDf, List.append_nil]

/-- Settles O58: the two turns of the loop, and the two requests of the run through the port. -/
theorem hashDfSeedForm : Obligations.HashDfSeedForm := by
  intro M s
  refine ⟨?_, hashDf_seed M, dfRequests_start_result M s, ?_⟩
  · rw [hashDf_seed, seedBytes_hashDf55, dfLoop_seed, dfMessage_seed, dfMessage_seed]
  · rw [dfRequests_start_state, dfMessage_seed, dfMessage_seed]
    rfl

/-! ### Hash requests -/

/-- Settles O59: `init()` empties the engine, the updates absorb the pieces joined, `final()` hashes them. -/
theorem hashRequestContract : Obligations.HashRequestContract := by
  intro pieces e
  rw [HashEngine.request, foldl_update]
  rfl

/-- Settles O19: the requests of each accepted command are listed in the state it comes to; a rejected one is its response
alone. -/
theorem hashRequestCounts : Obligations.HashRequestCounts := by
  intro s hatt
  have ⟨he, _, hr⟩ := hatt
  refine ⟨fun e n p hacc hthere => ?_, fun e a hacc hthere => ?_, fun a n hacc hthere => ?_, fun i err hpre => ?_⟩
  · exact ⟨_, exec_seeded ((instantiateError_none s.cfg e n p).mpr hacc) hthere rfl he hr,
      seeded_hashPort_length _ _ s⟩
  · exact ⟨_, exec_seeded ((reseedError_none s.cfg e a).mpr hacc) hthere rfl he hr, seeded_hashPort_length _ _ s⟩
  · have ⟨_, (hn : n ≤ 65536), _⟩ := hacc
    have hcount := generated_hashPort_length (s.dataIn.drop a) n hthere
    refine ⟨_, exec_generated hacc hthere hatt, hcount, ?_⟩
    rw [hcount]
    split_ifs <;> omega
  · exact ⟨_, exec_rejects i s err hpre, respond_hashPort (.error err) s⟩

/-- Settles O29: ABSORB leads to the first control state in which a request is due, and there the command stays. -/
theorem silentEngineWaits : Obligations.SilentEngineWaits := by
  intro i s hpass hthere he
  have hdue := requestDue_firstRequestPhase hthere
  refine ⟨{ s with phase := firstRequestPhase i s, dataIn := s.dataIn.drop (payloadLen i) }, ?_, rfl, ?_, ?_, ?_,
    fun hr => RequestDue.stays hdue he hr⟩
  · rw [exec_accepts i s hpass, resumeAbsorb_enough i [] s hthere]
    exact congrArg _ ((proceedFrom_afterAbsorb i s _).trans (hdue { s with dataIn := s.dataIn.drop (payloadLen i) } he).1)
  · rintro e n p rfl
    rfl
  · rintro e a rfl
    rfl
  · rintro a n rfl
    rw [firstRequestPhase_generate a n hthere]
    split_ifs <;> rfl

end Sys2Proof.Machine
end

section
/-! SUPPORT. Sums of byte strings (R78, R79): zero-extension keeps the number, a carry chain over the low columns adds
the low parts, and the carry it hands on stays below the number of addends. -/

namespace Sys2Proof.Machine

/-! ### Numbers of byte strings -/

/-- R12: `be_n(x)` reads of `x` only its value modulo `256^n`. -/
theorem beBytes_mod (n x : Nat) : beBytes n (x % 256 ^ n) = beBytes n x := by
  simpa [beNat_beBytes] using beBytes_beNat (beBytes n x)

/-- The greatest number of `k` bytes. -/
theorem beNat_replicate_ff (k : Nat) : beNat (List.replicate k 0xff) + 1 = 256 ^ k := by
  induction k with
  | zero => rfl
  | succ k ih =>
    have hff : (0xff : Byte).toNat = 255 := rfl
    rw [List.replicate_succ, beNat_cons, List.length_replicate, hff, pow_succ]
    omega

/-- R21: 55 bytes of all ones are one less than the modulus. -/
theorem beNat_ones : beNat (List.replicate 55 0xff) + 1 = 2 ^ 440 :=
  (beNat_replicate_ff SEEDLEN).trans pow_seedlen

/-- What the byte at position `i` adds to the number of those after it. -/
theorem beNat_drop (s : List Byte) {i : Nat} (h : i < s.length) :
    beNat (s.drop i) = (s.getD i 0).toNat * 256 ^ (s.length - (i + 1)) + beNat (s.drop (i + 1)) := by
  rw [List.drop_eq_getElem_cons h, beNat_cons, List.length_drop, List.getD_eq_getElem s 0 h]

theorem zext55_length {s : List Byte} (h : s.length ≤ SEEDLEN) : (zext55 s).length = SEEDLEN := by
  rw [zext55, List.length_append, List.length_replicate, Nat.sub_add_cancel h]

/-- R13: zero bytes on the left leave the number as it is. -/
@[simp] theorem beNat_zext55 (s : List Byte) : beNat (zext55 s) = beNat s := by
  simp [zext55, beNat_append]

/-! ### The sum -/

/-- R21, R78: the bytes of the sum. -/
theorem seedBytes_addMod (addends : List (List Byte)) :
    seedBytes (addMod addends) = beBytes SEEDLEN (addends.map beNat).sum := by
  rw [seedBytes, addMod_toNat, ← pow_seedlen, beBytes_mod]

theorem addMod_zext55 (addends : List (List Byte)) : addMod (addends.map zext55) = addMod addends := by
  have hmap : (addends.map zext55).map beNat = addends.map beNat := by simp
  rw [addMod, hmap, addMod]

/-- R79: the first two addends may be summed first. -/
theorem addMod_addMod_pair (a b : List Byte) (rest : List (List Byte)) :
    addMod (seedBytes (addMod [a, b]) :: rest) = addMod (a :: b :: rest) := by
  apply BitVec.eq_of_toNat_eq
  simp only [addMod_toNat, beNat_seedBytes, List.map_cons, List.map_nil, List.sum_cons, List.sum_nil, Nat.add_zero]
  rw [Nat.mod_add_mod, Nat.add_assoc]

/-- R80: the increment adds one modulo 2^440. -/
theorem inc_toNat (v : SeedVal) : (inc v).toNat = (v.toNat + 1) % 2 ^ 440 := by
  rw [inc, addMod_toNat]
  simp only [List.map_cons, List.map_nil, List.sum_cons, List.sum_nil, beNat_seedBytes]
  rfl

/-- R80: the increment of a value given by its bytes, both byte strings read modulo 2^440. -/
theorem inc_seedOfBytes {s t : List Byte} (h : (beNat s + 1) % 2 ^ 440 = beNat t % 2 ^ 440) :
    inc (seedOfBytes s) = seedOfBytes t := by
  apply BitVec.eq_of_toNat_eq
  rw [inc_toNat, seedOfBytes, seedOfBytes, BitVec.toNat_ofNat, BitVec.toNat_ofNat, ← h, Nat.mod_add_mod]

/-! ### The carry chain -/

/-- The sum of the numbers that stand from position `i` on in the zero-extended addends: what the carry chain over those
columns adds up. -/
def tailSum (addends : List (List Byte)) (i : Nat) : Nat :=
  (addends.map fun a => beNat ((zext55 a).drop i)).sum

theorem tailSum_zero (addends : List (List Byte)) : tailSum addends 0 = (addends.map beNat).sum := by
  simp [tailSum]

theorem tailSum_end {addends : List (List Byte)} (h : ∀ a ∈ addends, a.length ≤ SEEDLEN) :
    tailSum addends SEEDLEN = 0 := by
  refine List.sum_eq_zero fun x hx => ?_
  obtain ⟨a, ha, rfl⟩ := List.mem_map.mp hx
  rw [List.drop_of_length_le (zext55_length (h a ha)).le, beNat_nil]

/-- One column more: its bytes have the weight `256^k` above the `k` columns after it. -/
theorem tailSum_column {addends : List (List Byte)} (h : ∀ a ∈ addends, a.length ≤ SEEDLEN) {k i : Nat}
    (hi : i + (k + 1) = SEEDLEN) :
    tailSum addends i = columnSum addends i * 256 ^ k + tailSum addends (i + 1) := by
  rw [tailSum, columnSum, tailSum, ← List.sum_map_mul_right, ← List.sum_map_add]
  refine congrArg List.sum (List.map_congr_left fun a ha => ?_)
  have hlen := zext55_length (h a ha)
  have hk : SEEDLEN - (i + 1) = k := by omega
  rw [beNat_drop _ (by omega), hlen, hk]

/-- R79: the chain over the last `k` columns gives the low `k` bytes of their sum, and carries the rest. -/
theorem carryColumns_eq {addends : List (List Byte)} (h : ∀ a ∈ addends, a.length ≤ SEEDLEN) (k i : Nat)
    (hi : i + k = SEEDLEN) :
    carryColumns addends k i = (tailSum addends i / 256 ^ k, beBytes k (tailSum addends i)) := by
  induction k generalizing i with
  | zero =>
    obtain rfl : i = SEEDLEN := hi
    rw [tailSum_end h]
    rfl
  | succ k ih =>
    have hsum := tailSum_column h hi
    have hcarry : tailSum addends (i + 1) / 256 ^ k + columnSum addends i = tailSum addends i / 256 ^ k := by
      rw [hsum, Nat.add_comm (_ * _), Nat.add_mul_div_right _ _ (by positivity)]
    have hlow : beBytes k (tailSum addends (i + 1)) = beBytes k (tailSum addends i) := by
      rw [← beBytes_mod k (tailSum addends i), hsum, Nat.mul_add_mod_self_right, beBytes_mod]
    simp only [carryColumns, ih (i + 1) (by omega), hcarry, hlow]
    rw [Nat.div_div_eq_div_mul, ← pow_succ, beBytes]
    congr 2
    exact BitVec.eq_of_toNat_eq (by simp)

theorem carryChainSum_eq_seedBytes_addMod {addends : List (List Byte)} (h : ∀ a ∈ addends, a.length ≤ SEEDLEN) :
    carryChainSum addends = seedBytes (addMod addends) := by
  rw [carryChainSum, carryColumns_eq h SEEDLEN 0 (Nat.zero_add _), tailSum_zero, seedBytes_addMod]

theorem columnSum_le (addends : List (List Byte)) (i : Nat) : columnSum addends i ≤ addends.length * 255 := by
  have hbyte : ∀ x ∈ addends.map fun a => ((zext55 a).getD i 0).toNat, x ≤ 255 := by
    intro x hx
    obtain ⟨a, -, rfl⟩ := List.mem_map.mp hx
    exact Nat.le_of_lt_succ (BitVec.isLt _)
  simpa [columnSum] using List.sum_le_card_nsmul _ 255 hbyte

/-- R79: `n` bytes and a carry of at most `n - 1` add up to less than `256 * n`. -/
theorem carryColumns_carry_le (addends : List (List Byte)) (k i : Nat) :
    (carryColumns addends k i).1 ≤ addends.length - 1 := by
  induction k generalizing i with
  | zero => exact Nat.zero_le _
  | succ k ih =>
    have hlow := ih (i + 1)
    have hcol := columnSum_le addends i
    show ((carryColumns addends k (i + 1)).1 + columnSum addends i) / 256 ≤ addends.length - 1
    omega

end Sys2Proof.Machine
end

section
/-! SUPPORT. The statements of the family of 41_arith.md, settled: the writes of the counter, the 440-bit sum, its carry
chain, the increment, the counter as an addend. -/

namespace Sys2Proof.Machine

/-- Settles O36: a transition resets, commits or writes no register, and the host writes none. -/
theorem reseedCounterWrites : Obligations.ReseedCounterWrites := by
  intro s
  refine ⟨fun hr => ?_, fun hr newV newC hp => ?_, fun hr newV hp => ?_, fun hr hp => (tick_regsKept hr hp).RC,
    fun e => ?_⟩
  · rw [tick_of_rst_high hr]
    rfl
  · rw [tick_commit hr hp, goto_RC, commit_seed_RC]
  · rw [tick_commit hr hp, goto_RC, commit_advance_RC, BitVec.toNat_add]
    rfl
  · cases e <;> rfl

/-- Settles O51: the register's bytes are those of the sum, whose addends zero-extension does not change; the example is
`256^55 - 1` and one. -/
theorem modularSum : Obligations.ModularSum := by
  refine ⟨fun addends _ => ⟨?_, addMod_zext55 addends⟩, BitVec.eq_of_toNat_eq ?_⟩
  · rw [seedBytes, addMod_toNat]
    rfl
  · have hone : beNat (List.replicate 31 0x00 ++ [0x01]) = 1 := rfl
    rw [addMod_toNat, List.map_cons, List.map_cons, List.map_nil, List.sum_cons, List.sum_cons, hone, List.sum_nil,
      Nat.add_zero, beNat_ones, Nat.mod_self]
    exact BitVec.toNat_zero.symm

/-- Settles O52: by what the chain over the last columns comes to, and the bound on its carry. (The model's function has
the name `carryChainSum`.) -/
theorem carryChainSum_modular : Obligations.CarryChainSum := by
  intro addends h
  refine ⟨carryChainSum_eq_seedBytes_addMod h, fun hfour k i => ?_, fun a b => (addMod_addMod_pair a b addends).symm⟩
  exact (carryColumns_carry_le addends k i).trans (Nat.sub_le_sub_right hfour 1)

/-- Settles O54: 47 zero bytes in front, and byte `j` of eight has the weight `256^(7 - j)`. -/
theorem counterAddendPlace : Obligations.CounterAddendPlace := by
  intro rc
  have hpad : zext55 (counterBytes rc) = List.replicate 47 0x00 ++ counterBytes rc := by
    rw [zext55, counterBytes_length]
    rfl
  refine ⟨zext55_length (by simp [SEEDLEN]), ?_, fun j hj => ?_⟩
  · rw [hpad, List.take_left' List.length_replicate]
  · have hbit : 56 - 8 * j = 8 * (8 - 1 - j) := by omega
    rw [hpad, List.getD_append_right _ _ _ _ (by simp), List.length_replicate, Nat.add_sub_cancel_left, hbit]
    exact beBytes_toNat_getD rc 8 j hj

/-- Settles O53: the increment as a number; in both corner cases the number of the result is one more. -/
theorem incrementWraps : Obligations.IncrementWraps := by
  refine ⟨fun v => ⟨rfl, inc_toNat v⟩, ?_, ?_⟩
  · have hwrap : (beNat (List.replicate 55 0xff) + 1) % 2 ^ 440 = beNat (List.replicate 55 0x00) % 2 ^ 440 := by
      have hzeros : beNat (List.replicate 55 0x00) = 0 := beNat_replicate_zero 55
      rw [beNat_ones, hzeros, Nat.mod_self, Nat.zero_mod]
    rw [inc_seedOfBytes hwrap, seedBytes_seedOfBytes _ rfl]
  · have hnext : beNat (List.replicate 54 0x00 ++ [0xff]) + 1 = beNat (List.replicate 53 0x00 ++ [0x01, 0x00]) := rfl
    rw [inc_seedOfBytes (congrArg (· % 2 ^ 440) hnext), seedBytes_seedOfBytes _ rfl]

end Sys2Proof.Machine
end

section
/-! SUPPORT. The ways a command that derives a new seed can end, INSTANTIATE or RESEED: rejected, waiting for payload,
waiting for the engine, committed (R89, R93, R68, R132). -/

namespace Sys2Proof.Machine

/-- R89, R93: the states in which a seeding command `i`, run from `s`, can end; `ms` are its hash requests. -/
inductive SeedingEnd (i : Instr) (s : State) : State → Prop where
  | rejected (e : DrbgError) : SeedingEnd i s (raise e s)
  | payloadShort (hshort : s.dataIn.length < payloadLen i) :
    SeedingEnd i s { s with dataIn := [], phase := .absorb i s.dataIn }
  | engineSilent (M : List Byte) :
    SeedingEnd i s ((inBytes (payloadLen i) s).2.goto (.deriveV (DfRun.start M)))
  | committed (M : List Byte) (ms : List (List Byte)) (hms : ms ≠ []) :
    SeedingEnd i s (commitAndRespond (.seed (hashDf55 M) (hashDf55 (constantSeed (hashDf55 M))))
      ((inBytes (payloadLen i) s).2.hashed ms))

/-- R89, R93: what follows the check, the command being one whose ABSORB leads to DERIVE_V. -/
theorem resumeAbsorb_seedingEnd {i : Instr} {s : State}
    (hseeds : ∀ payload, ∃ M, afterAbsorb i payload s = .deriveV (DfRun.start M)) :
    SeedingEnd i s (resumeAbsorb i [] s) := by
  by_cases hthere : payloadLen i ≤ s.dataIn.length
  · obtain ⟨M, hM⟩ := hseeds ([] ++ s.dataIn.take (payloadLen i))
    have hderive : resumeAbsorb i [] s = fromDeriveV (DfRun.start M) (inBytes (payloadLen i) s).2 :=
      (resumeAbsorb_enough i [] s hthere).trans (congrArg (proceedFrom · _) hM)
    rw [hderive]
    cases he : (inBytes (payloadLen i) s).2.engineAnswers with
    | false =>
      rw [fromDeriveV_waits M _ he]
      exact .engineSilent M
    | true =>
      rw [fromDeriveV_start M _ he]
      exact .committed M _ (List.cons_ne_nil _ _)
  · have hshort : s.dataIn.length < payloadLen i := Nat.not_le.mp hthere
    rw [resumeAbsorb_waits i [] s hshort]
    exact .payloadShort hshort

/-- R46: the whole command, its check included. -/
theorem execState_seedingEnd {i : Instr} {s : State}
    (hseeds : ∀ payload, ∃ M, afterAbsorb i payload s = .deriveV (DfRun.start M)) :
    SeedingEnd i s (execState i s) := by
  unfold execState
  cases precondition i s with
  | some e => exact .rejected e
  | none => exact resumeAbsorb_seedingEnd hseeds

/-- R42: no seeding command delivers a byte. -/
theorem SeedingEnd.dataOut {i : Instr} {s t : State} (h : SeedingEnd i s t) : t.dataOut = s.dataOut := by
  cases h with
  | rejected e => exact respond_dataOut _ s
  | payloadShort hshort => rfl
  | engineSilent M => rfl
  | committed M ms hms => exact respond_dataOut _ _

/-- R41, R112: a rejected one takes no payload; a short payload is taken to its end, which is all there is. -/
theorem SeedingEnd.dataIn {i : Instr} {s t : State} (h : SeedingEnd i s t) :
    t.dataIn = s.dataIn ∨ t.dataIn = s.dataIn.drop (payloadLen i) := by
  cases h with
  | rejected e => exact .inl (respond_dataIn _ s)
  | payloadShort hshort => exact .inr (List.drop_eq_nil_of_le hshort.le).symm
  | engineSilent M => exact .inr rfl
  | committed M ms hms => exact .inr (respond_dataIn _ _)

/-- R31, R32: the registers and the engine are written by the commit alone, all together. -/
theorem SeedingEnd.registers {i : Instr} {s t : State} (h : SeedingEnd i s t) :
    (t.V = s.V ∧ t.C = s.C ∧ t.RC = s.RC ∧ t.INST = s.INST ∧ t.hashPort = s.hashPort ∧ t.engine = s.engine) ∨
      (t.C = hashDf55 (constantSeed t.V) ∧ t.RC = 1 ∧ t.INST = true ∧ t.engine = .fresh) := by
  cases h with
  | rejected e => exact .inl (by simp [raise])
  | payloadShort hshort => exact .inl ⟨rfl, rfl, rfl, rfl, rfl, rfl⟩
  | engineSilent M => exact .inl ⟨rfl, rfl, rfl, rfl, rfl, rfl⟩
  | committed M ms hms => exact .inr (by simp [commitAndRespond, State.hashed, hms])

end Sys2Proof.Machine
end

section
/-! SUPPORT. The statements of the family of 42_instantiate.md, settled: what INSTANTIATE depends on, and what it and
RESEED leave alone. -/

namespace Sys2Proof.Machine

/-- Settles O13: the state a completed INSTANTIATE comes to is the same function of the payload, whatever the registers
and the interval were, and neither is read by its check. -/
theorem instantiateForgetsOldState : Obligations.InstantiateForgetsOldState := by
  intro s e n p V C RC ri INST hacc hthere he hr
  have hpass : precondition (.instantiate e n p) s = none := (instantiateError_none s.cfg e n p).mpr hacc
  refine ⟨_, exec_seeded hpass hthere rfl he hr, ?_⟩
  exact exec_seeded
    (s := { s with V := V, C := C, RC := RC, INST := INST, cfg := { s.cfg with reseedInterval := ri } })
    ((instantiateError_none _ e n p).mpr hacc) hthere rfl he hr

/-- Settles O14: both commands come to the state seeded with `e1 ++ e2`. -/
theorem instantiateSplitInvariant : Obligations.InstantiateSplitInvariant := by
  intro s e1 e2 rest haccJoined haccSplit hd he hr
  have ⟨hjoined, _⟩ := instantiateResult s (e1 ++ e2) [] [] rest haccJoined (by simpa using hd) he hr
  have ⟨hsplit, _⟩ := instantiateResult s e1 e2 [] rest haccSplit (by simpa using hd) he hr
  simp only [List.append_nil] at hjoined hsplit
  exact ⟨_, hjoined, hsplit, hashDf_seed (e1 ++ e2)⟩

/-- Settles O31: by the ways the two commands can end. -/
theorem seedingCommandsFrame : Obligations.SeedingCommandsFrame := by
  intro i s t hi ht
  have hseeds : ∀ payload, ∃ M, afterAbsorb i payload s = .deriveV (DfRun.start M) := by
    rcases hi with ⟨e, n, p, rfl⟩ | ⟨e, a, rfl⟩ <;> exact fun _ => ⟨_, rfl⟩
  rw [exec_eq, Host.Outcome.next.injEq] at ht
  have hend : SeedingEnd i s t := ht ▸ execState_seedingEnd hseeds
  have ⟨hcfg, hcmdIn, hrst, houtReady, hrspReady, hengineAnswers⟩ : SameLines s t := ht ▸ execState_sameLines i s
  exact ⟨hcfg, hcmdIn, hend.dataOut, hrst, houtReady, hrspReady, hengineAnswers, hend.dataIn, hend.registers⟩

end Sys2Proof.Machine
end

section
/-! SUPPORT. The statements of the family of 43_reseed.md, settled: RESEED before any INSTANTIATE, and after the counter
has run out. -/

namespace Sys2Proof.Machine

/-- R83, R96: the reseed comparator of a legal build is off once a seeding command has set `INST` and `RC = 1`, the least
interval being 1. -/
theorem reseedRequired_reseeded {cfg : Config} (hlegal : cfg.Legal) : reseedRequired cfg true 1 = false := by
  obtain ⟨hinterval, -⟩ := hlegal
  have hcounter : (1 : BitVec 64).toNat = 1 := rfl
  rw [← Bool.not_eq_true, reseedRequired_iff, hcounter]
  rintro (hinst | habove)
  · cases hinst
  · omega

/-- Settles O15: RESEED's result for any `V` holds whatever `INST` is; the zero `V` it reads is 55 zero bytes. -/
theorem reseedFromUninstantiated : Obligations.ReseedFromUninstantiated := by
  intro s e a rest _ hV hacc hd he hr
  obtain ⟨hexec, -⟩ := reseedResult s e a rest hacc hd he hr
  have hzero : seedBytes s.V = List.replicate 55 0x00 := hV ▸ seedBytes_zero
  rw [hzero] at hexec
  exact ⟨_, hexec, rfl, rfl, rfl⟩

/-- Settles O16: RESEED's check reads only the build parameters and its seed material only `V` and the payload, and the
commit overwrites `RC` and `C`, so the seeded state is the same for all of them. -/
theorem reseedIgnoresCounter : Obligations.ReseedIgnoresCounter := by
  intro s entLen addLen hlegal hacc hthere he hr
  refine ⟨seeded (reseedSeed s.V entLen addLen (s.dataIn.take (entLen + addLen))) (s.dataIn.drop (entLen + addLen)) s,
    fun rc c => ?_, rfl, rfl, reseedRequired_reseeded hlegal⟩
  have hpass : precondition (.reseed entLen addLen) { s with RC := rc, C := c } = none :=
    (reseedError_none s.cfg entLen addLen).mpr hacc
  exact exec_seeded hpass hthere rfl he hr

end Sys2Proof.Machine
end

section
/-! SUPPORT. What a running command comes to once the host and the engine attend to it (R104, R133): control state by
control state, a transition made under any lines, or the wait it makes instead, leaves that the same. -/

namespace Sys2Proof.Machine

/-! ### The outcome of a control state -/

/-- R27, R116: from a control state that is given, the command comes to what the attended sequencer comes to from it. -/
theorem outcomeOf_goto {p : Phase} (hp : p ≠ .idle) {s : State} (hr : s.rst = false) :
    outcomeOf (s.goto p) = proceedFrom p (attend s) := by
  have hgoto : attend (s.goto p) = (attend s).goto p := rfl
  have hlow : (attend s).rst = false := hr
  rw [outcomeOf, goto_phase, if_neg hp, hgoto, advance_eq, goto_phase, proceedFrom_of_goto p hp]
  simp [hlow]

/-- R116: so it does where a transition waits, leaving the state as it is. -/
theorem outcomeOf_waiting {p : Phase} (hp : p ≠ .idle) {s : State} (hs : s.phase = p) (hr : s.rst = false) :
    outcomeOf s = proceedFrom p (attend s) := by
  subst hs
  exact outcomeOf_goto hp hr

/-! ### RESPOND and COMMIT -/

/-- R56: the response, delivered already or waiting to be, is delivered in the end. -/
theorem outcomeOf_respond (st : Status) {s : State} (hr : s.rst = false) :
    outcomeOf (respond st s) = respond st (attend s) := by
  rcases respond_cases st s with ⟨-, h⟩ | ⟨-, h⟩ <;> rw [h]
  · rw [respond_taken st (attend s) rfl]
    rfl
  · exact outcomeOf_goto (p := .respond st) Phase.noConfusion hr

theorem attend_commit (w : Writes) (s : State) : attend (commit w s) = commit w (attend s) := by
  cases w <;> rfl

theorem outcomeOf_tickCommit (w : Writes) {s : State} (hr : s.rst = false) :
    outcomeOf (tickCommit w s) = commitAndRespond w (attend s) := by
  rw [tickCommit, outcomeOf_goto Phase.noConfusion ((commit_sameLines w s).rst.trans hr), attend_commit]
  rfl

/-! ### DERIVE_V and DERIVE_C -/

/-- R69: with the engine answering, DERIVE_C is its next request and the rest of it. -/
theorem fromDeriveC_turn (newV : SeedVal) {df : DfRun} {s : State} (hu : df.unfinished = true)
    (he : s.engineAnswers = true) :
    fromDeriveC newV df s =
      fromDeriveC newV (df.take (hashRequest df.message s).1) (hashRequest df.message s).2 := by
  simp only [fromDeriveC, he, hashRequest_engineAnswers, dfRequests_turn df s hu, Bool.not_true, Bool.and_false,
    Bool.false_eq_true, if_false]

/-- R69: and so is DERIVE_V. -/
theorem fromDeriveV_turn {df : DfRun} {s : State} (hu : df.unfinished = true) (he : s.engineAnswers = true) :
    fromDeriveV df s = fromDeriveV (df.take (hashRequest df.message s).1) (hashRequest df.message s).2 := by
  simp only [fromDeriveV, he, hashRequest_engineAnswers, dfRequests_turn df s hu, Bool.not_true, Bool.and_false,
    Bool.false_eq_true, if_false]

theorem outcomeOf_tickDeriveV {df : DfRun} {s : State} (hs : s.phase = .deriveV df) (hr : s.rst = false) :
    outcomeOf (tickDeriveV df s) = fromDeriveV df (attend s) := by
  unfold tickDeriveV
  split_ifs with hu he
  · rw [fromDeriveV_turn hu rfl]
    exact outcomeOf_goto (s := (hashRequest df.message s).2) Phase.noConfusion hr
  · exact outcomeOf_waiting Phase.noConfusion hs hr
  · rw [outcomeOf_goto Phase.noConfusion hr, fromDeriveV, dfRequests_finished _ _ _ (by simpa using hu)]
    simp [hu, proceedFrom]

theorem outcomeOf_tickDeriveC {newV : SeedVal} {df : DfRun} {s : State} (hs : s.phase = .deriveC newV df)
    (hr : s.rst = false) : outcomeOf (tickDeriveC newV df s) = fromDeriveC newV df (attend s) := by
  unfold tickDeriveC
  split_ifs with hu he
  · rw [fromDeriveC_turn newV hu rfl]
    exact outcomeOf_goto (s := (hashRequest df.message s).2) Phase.noConfusion hr
  · exact outcomeOf_waiting Phase.noConfusion hs hr
  · rw [outcomeOf_goto Phase.noConfusion hr, fromDeriveC, dfRequests_finished _ _ _ (by simpa using hu)]
    simp [hu, proceedFrom]

/-! ### GEN_W, GEN_OUT and GEN_H -/

theorem outcomeOf_tickGenH {vw : SeedVal} {s : State} (hs : s.phase = .genH vw) (hr : s.rst = false) :
    outcomeOf (tickGenH vw s) = fromGenH vw (attend s) := by
  unfold tickGenH
  split
  · exact outcomeOf_goto (s := (hashRequest (finalMessage vw) s).2) Phase.noConfusion hr
  · exact outcomeOf_waiting Phase.noConfusion hs hr

/-- R101: GEN_OUT with the engine answering and the host taking every byte: what is pending goes out, then the loop
runs. -/
theorem fromGenOut_pending (vw temp : SeedVal) (pending : List Byte) (left : Nat) {s : State}
    (he : s.engineAnswers = true) (ho : s.outReady = true) :
    fromGenOut vw temp pending left s =
      fromGenH vw (outputLoop (blockCount left) temp left (outBytes pending s)) := by
  by_cases hleft : left = 0
  · subst hleft
    simp [fromGenOut, ho, blockCount, DIGEST, outputLoop]
  · simp [fromGenOut, hleft, he, ho]

/-- R101: a block made and the rest of the loop are the loop. -/
theorem outputLoop_block (temp : SeedVal) {left : Nat} (h : left ≠ 0) (s : State) :
    outputLoop (blockCount left) temp left s =
      outputLoop (blockCount (left - DIGEST)) (inc temp) (left - DIGEST)
        (outBytes (outputBlock temp left s).1 (outputBlock temp left s).2) := by
  have hcount : blockCount left = blockCount (left - DIGEST) + 1 := by
    simp only [blockCount, DIGEST]
    omega
  rw [hcount, outputLoop]

theorem outcomeOf_tickGenOut {vw temp : SeedVal} {pending : List Byte} {left : Nat} {s : State}
    (hs : s.phase = .genOut vw temp pending left) (hr : s.rst = false) :
    outcomeOf (tickGenOut vw temp pending left s) = fromGenOut vw temp pending left (attend s) := by
  cases pending with
  | cons b rest =>
    simp only [tickGenOut]
    split
    · rw [outcomeOf_goto Phase.noConfusion (by exact hr), proceedFrom, fromGenOut_pending _ _ _ _ rfl rfl,
        fromGenOut_pending _ _ _ _ rfl rfl]
      simp [outBytes, attend]
    · exact outcomeOf_waiting Phase.noConfusion hs hr
  | nil =>
    simp only [tickGenOut]
    split_ifs with hleft he
    · subst hleft
      rw [outcomeOf_goto Phase.noConfusion hr]
      simp [proceedFrom, fromGenOut, outBytes_nil]
    · rw [outcomeOf_goto Phase.noConfusion (by exact hr), proceedFrom, fromGenOut_pending _ _ _ _ rfl rfl,
        fromGenOut_pending _ _ _ _ rfl rfl, outputLoop_block temp hleft, outBytes_nil]
      rfl
    · exact outcomeOf_waiting Phase.noConfusion hs hr

theorem outcomeOf_tickGenW {add : List Byte} {n : Nat} {s : State} (hs : s.phase = .genW add n) (hr : s.rst = false) :
    outcomeOf (tickGenW add n s) = fromGenW add n (attend s) := by
  unfold tickGenW
  split
  · exact outcomeOf_goto (s := (hashRequest (additionalMessage s.V add) s).2) Phase.noConfusion hr
  · exact outcomeOf_waiting Phase.noConfusion hs hr

/-! ### ABSORB and CHECK -/

/-- R41, R132: some of the payload taken first and ABSORB gone on with is ABSORB of all of it. -/
theorem resumeAbsorb_inBytes (i : Instr) (m : Nat) (got : List Byte) {s : State}
    (hneed : m ≤ payloadLen i - got.length) (hthere : m ≤ s.dataIn.length) :
    resumeAbsorb i (got ++ (inBytes m s).1) (inBytes m s).2 = resumeAbsorb i got s := by
  obtain ⟨k, hk⟩ := Nat.exists_eq_add_of_le hneed
  have hrest : payloadLen i - (got ++ (inBytes m s).1).length = k := by
    simp only [inBytes, List.length_append, List.length_take]
    omega
  by_cases hall : m + k ≤ s.dataIn.length
  · rw [resumeAbsorb_enough i got s (by omega),
      resumeAbsorb_enough _ _ _ (by rw [hrest, inBytes_dataIn, List.length_drop]; omega),
      hrest, hk, List.take_add, afterAbsorb_inBytes]
    simp [inBytes]
  · rw [resumeAbsorb_waits i got s (by omega),
      resumeAbsorb_waits _ _ _ (by rw [hrest, inBytes_dataIn, List.length_drop]; omega)]
    simp [inBytes]

theorem afterAbsorb_ne_idle (i : Instr) (payload : List Byte) (s : State) : afterAbsorb i payload s ≠ .idle := by
  rcases afterAbsorb_cases i payload s with ⟨M, h⟩ | ⟨add, n, -, h⟩ | ⟨n, h⟩ <;> rw [h] <;> exact Phase.noConfusion

theorem outcomeOf_tickAbsorb {i : Instr} {got : List Byte} {s : State} (hs : s.phase = .absorb i got)
    (hr : s.rst = false) : outcomeOf (tickAbsorb i got s) = resumeAbsorb i got (attend s) := by
  unfold tickAbsorb
  split_ifs with hall hempty
  · have hneed : payloadLen i - got.length = 0 := Nat.sub_eq_zero_of_le hall
    have hafter : afterAbsorb i got (attend s) = afterAbsorb i got s := by cases i <;> rfl
    rw [outcomeOf_goto (afterAbsorb_ne_idle i got s) hr, resumeAbsorb_enough i got (attend s) (by omega), hneed,
      List.take_zero, List.append_nil, hafter]
    rfl
  · exact outcomeOf_waiting Phase.noConfusion hs hr
  · rw [outcomeOf_goto Phase.noConfusion (by exact hr)]
    have hthere : 1 ≤ s.dataIn.length := List.length_pos_iff.mpr (by simpa using hempty)
    exact resumeAbsorb_inBytes i 1 got (s := attend s) (by omega) hthere

theorem outcomeOf_tickCheck (d : Descriptor) {s : State} (hr : s.rst = false) :
    outcomeOf (tickCheck d s) = descriptorState d (attend s) := by
  unfold tickCheck descriptorState
  cases decode d with
  | illegal why => exact outcomeOf_goto (p := .respond (.error .illegalCommand)) Phase.noConfusion hr
  | command i =>
    have hpre : precondition i (attend s) = precondition i s := precondition_congr i _ _ rfl rfl rfl
    simp only [execState, hpre]
    cases precondition i s with
    | some e => exact outcomeOf_goto (p := .respond (.error e)) Phase.noConfusion hr
    | none => exact outcomeOf_goto (p := .absorb i []) Phase.noConfusion hr

/-! ### The transition -/

theorem outcomeOf_tickFrom {p : Phase} (hp : p ≠ .idle) {s : State} (hs : s.phase = p) (hr : s.rst = false) :
    outcomeOf (tickFrom p s) = proceedFrom p (attend s) := by
  cases p with
  | idle => exact absurd rfl hp
  | check d => exact outcomeOf_tickCheck d hr
  | absorb i got => exact outcomeOf_tickAbsorb hs hr
  | deriveV df => exact outcomeOf_tickDeriveV hs hr
  | deriveC newV df => exact outcomeOf_tickDeriveC hs hr
  | genW add n => exact outcomeOf_tickGenW hs hr
  | genOut vw temp pending left => exact outcomeOf_tickGenOut hs hr
  | genH vw => exact outcomeOf_tickGenH hs hr
  | commit w => exact outcomeOf_tickCommit w hr
  | respond st => exact outcomeOf_respond st hr

end Sys2Proof.Machine
end

section
/-! SUPPORT. GENERATE's output of a shorter request is the beginning of that of a longer one (R104), a request for no
bytes (R103), and the ways GENERATE can end: rejected, waiting, committed (R97, R68, R132, R133). -/

namespace Sys2Proof.Machine

/-! ### The output -/

/-- R104: exactly the bytes asked for. -/
theorem generateOutput_length (vw : SeedVal) (n : Nat) : (generateOutput vw n).length = n :=
  (congrArg List.length (loopBytes_eq (blockCount n) vw n)).symm.trans (loopBytes_length vw n)

theorem flatMap_outputBlockAt_length (vw : SeedVal) (turns : Nat) :
    ((List.range turns).flatMap (outputBlockAt vw)).length = turns * DIGEST := by
  simp [List.length_flatMap, outputBlockAt]

/-- R104: the blocks are the same whatever their number, so a shorter output is the beginning of a longer one. -/
theorem generateOutput_take (vw : SeedVal) {k m : Nat} (h : k ≤ m) :
    (generateOutput vw m).take k = generateOutput vw k := by
  obtain ⟨j, hj⟩ := Nat.exists_eq_add_of_le (Nat.div_le_div_right (c := 32) (Nat.add_le_add_right h 31))
  have hblocks : k ≤ ((List.range ((k + 31) / 32)).flatMap (outputBlockAt vw)).length := by
    rw [flatMap_outputBlockAt_length, DIGEST]
    omega
  rw [generateOutput, generateOutput, List.take_take, Nat.min_eq_left h, hj, List.range_add, List.flatMap_append,
    List.take_append_of_le_length hblocks]

/-! ### GENERATE after ABSORB -/

/-- R97: with its additional input on data-in, GENERATE takes it and goes on after ABSORB. -/
theorem resumeAbsorb_generate {addLen : Nat} (n : Nat) {s : State} (h : addLen ≤ s.dataIn.length) :
    resumeAbsorb (.generate addLen n) [] s = startGenerate (s.dataIn.take addLen) n (inBytes addLen s).2 := by
  have hfield : payloadField (s.dataIn.take addLen) 0 addLen = s.dataIn.take addLen := by simp [payloadField]
  rw [resumeAbsorb, absorbGenerate, absorb_enough (.generate addLen n) [] s _ h]
  exact congrArg (startGenerate · n _) hfield

/-- R103: with no byte to make, GEN_OUT goes on to GEN_H whatever the host's ready line is. -/
theorem fromGenOut_zero (vw temp : SeedVal) (s : State) : fromGenOut vw temp [] 0 s = fromGenH vw s := by
  simp [fromGenOut, outBytes_nil]

/-- R99, R102, R103: a GENERATE of no bytes after ABSORB, the engine answering. -/
theorem startGenerate_zero (add : List Byte) {s : State} (he : s.engineAnswers = true) :
    startGenerate add 0 s =
      commitAndRespond
        (.advance (finalSum (mixedV s.V add) (SHA256 (finalMessage (mixedV s.V add))) s.C s.RC))
        (s.hashed ((if add = [] then [] else [additionalMessage s.V add]) ++ [finalMessage (mixedV s.V add)])) := by
  rw [startGenerate_answered add 0 he, fromGenOut_zero, fromGenH_answered _ (by exact he), hashed_hashed]
  rfl

/-! ### How GENERATE ends -/

/-- R97: the states to which GENERATE, its payload taken, can come from `s`, `vw` being its `Vw`: waiting or committed,
after the hash requests `ms` and with the bytes `bs` delivered. -/
inductive GenerateEnd (vw : SeedVal) (s : State) : State → Prop where
  | waiting (ms : List (List Byte)) (bs : List Byte) (p : Phase) :
    GenerateEnd vw s ((outBytes bs (s.hashed ms)).goto p)
  | committed (ms : List (List Byte)) (bs : List Byte) (hms : ms ≠ []) :
    GenerateEnd vw s
      (commitAndRespond (.advance (finalSum vw (SHA256 (finalMessage vw)) s.C s.RC)) (outBytes bs (s.hashed ms)))

/-- R101: requests that went before belong to the same GENERATE. -/
theorem GenerateEnd.hashed {vw : SeedVal} {s t : State} (ms : List (List Byte))
    (h : GenerateEnd vw (s.hashed ms) t) : GenerateEnd vw s t := by
  cases h with
  | waiting ns bs p =>
    rw [hashed_hashed]
    exact .waiting _ bs p
  | committed ns bs hns =>
    rw [hashed_hashed]
    exact .committed _ bs (List.append_ne_nil_of_right_ne_nil ms hns)

/-- R101: and so do bytes delivered before. -/
theorem GenerateEnd.out {vw : SeedVal} {s t : State} (bs : List Byte) (h : GenerateEnd vw (outBytes bs s) t) :
    GenerateEnd vw s t := by
  have hjoin (ms : List (List Byte)) (cs : List Byte) :
      outBytes cs ((outBytes bs s).hashed ms) = outBytes (bs ++ cs) (s.hashed ms) := by
    simp [outBytes, State.hashed]
  cases h with
  | waiting ms cs p =>
    rw [hjoin]
    exact .waiting ms _ p
  | committed ms cs hms =>
    rw [hjoin]
    exact .committed ms _ hms

/-- R116: a wait before any request. -/
theorem GenerateEnd.goto (vw : SeedVal) (s : State) (p : Phase) : GenerateEnd vw s (s.goto p) := by
  have h := GenerateEnd.waiting (vw := vw) (s := s) [] [] p
  rwa [hashed_nil, outBytes_nil] at h

theorem fromGenH_end (vw : SeedVal) (s : State) : GenerateEnd vw s (fromGenH vw s) := by
  by_cases he : s.engineAnswers = true
  · have h := GenerateEnd.committed (vw := vw) (s := s) [finalMessage vw] [] (List.cons_ne_nil _ _)
    rwa [outBytes_nil, ← fromGenH_answered vw he] at h
  · rw [fromGenH, if_pos (by simpa using he)]
    exact .goto vw s _

theorem fromGenOut_end (vw temp : SeedVal) (pending : List Byte) (left : Nat) (s : State) :
    GenerateEnd vw s (fromGenOut vw temp pending left s) := by
  unfold fromGenOut
  split
  · exact .goto vw s _
  · refine .out pending ?_
    simp only
    split_ifs
    · exact fromGenH_end vw _
    · exact .goto vw _ _
    · rw [outputBlock_eq]
      exact .hashed [seedBytes temp] (.goto vw _ _)
    · rw [outputLoop_eq]
      exact .hashed (loopMessages _ temp) (.out (loopBytes _ temp left) (fromGenH_end vw _))

theorem startGenerate_end (add : List Byte) (n : Nat) (s : State) :
    GenerateEnd (mixedV s.V add) s (startGenerate add n s) := by
  by_cases he : s.engineAnswers = true
  · rw [startGenerate_answered add n he]
    exact .hashed _ (fromGenOut_end _ _ _ _ _)
  · by_cases hadd : add = []
    · have hstart : startGenerate add n s = fromGenOut (mixedV s.V add) (mixedV s.V add) [] n s := by
        simp [startGenerate, mixedV, hadd]
      rw [hstart]
      exact fromGenOut_end _ _ _ _ s
    · have hwait : startGenerate add n s = s.goto (.genW add n) := by simp [startGenerate, fromGenW, hadd, he]
      rw [hwait]
      exact .goto _ s _

/-- R97, R112, R132: the whole command: rejected, or its payload, as far as it is there, taken. -/
theorem execState_generate (addLen n : Nat) (s : State) :
    (∃ e, execState (.generate addLen n) s = raise e s) ∨
      GenerateEnd (mixedV s.V (s.dataIn.take addLen)) (inBytes addLen s).2 (execState (.generate addLen n) s) := by
  unfold execState
  cases precondition (.generate addLen n) s with
  | some e => exact .inl ⟨e, rfl⟩
  | none =>
    right
    by_cases hthere : addLen ≤ s.dataIn.length
    · rw [resumeAbsorb_generate n hthere]
      exact startGenerate_end _ n (inBytes addLen s).2
    · have hshort : s.dataIn.length < payloadLen (.generate addLen n) := Nat.not_le.mp hthere
      have hempty : s.dataIn.drop addLen = [] := List.drop_eq_nil_of_le hshort.le
      have hwait : resumeAbsorb (.generate addLen n) [] s =
          (inBytes addLen s).2.goto (.absorb (.generate addLen n) s.dataIn) := by
        rw [resumeAbsorb_waits _ [] s hshort, inBytes, hempty]
        rfl
      rw [hwait]
      exact .goto _ _ _

namespace GenerateEnd

variable {vw : SeedVal} {s t : State}

/-- R31, R32: GENERATE writes neither `C` nor `INST`, and past ABSORB it takes nothing more from data-in. -/
theorem unchanged (h : GenerateEnd vw s t) : t.C = s.C ∧ t.INST = s.INST ∧ t.dataIn = s.dataIn := by
  cases h with
  | waiting ms bs p => exact ⟨rfl, rfl, rfl⟩
  | committed ms bs hms => simp [commitAndRespond]

/-- R37, R42: what was delivered stays delivered. -/
theorem transfers (h : GenerateEnd vw s t) : s.dataOut <+: t.dataOut ∧ s.hashPort <+: t.hashPort := by
  cases h with
  | waiting ms bs p => exact ⟨⟨bs, rfl⟩, ⟨ms, rfl⟩⟩
  | committed ms bs hms => simp [commitAndRespond, State.hashed]

/-- R31, R102: `V` and `RC` are written by the commit alone, both together. -/
theorem registers (h : GenerateEnd vw s t) :
    (t.V = s.V ∧ t.RC = s.RC) ∨
      (t.RC = s.RC + 1 ∧ t.engine = .fresh ∧ t.V = finalSum vw (SHA256 (finalMessage vw)) s.C s.RC) := by
  cases h with
  | waiting ms bs p => exact .inl ⟨rfl, rfl⟩
  | committed ms bs hms => exact .inr (by simp [commitAndRespond, State.hashed, hms])

end GenerateEnd

end Sys2Proof.Machine
end

section
/-! SUPPORT. The statements of the family of 44_generate.md, settled: GENERATE's output, what it leaves alone, and that
the pacing of a command does not change its outcome. -/

namespace Sys2Proof.Machine

/-- Settles O17: both requests, accepted, come to states known in full, which differ in the output alone. -/
theorem generateOutputPrefix : Obligations.GenerateOutputPrefix := by
  intro s addLen k m hkm ⟨hadm, hm, ha⟩ hthere hatt
  refine ⟨_, _, generateOutput (mixedV s.V (s.dataIn.take addLen)) m,
    exec_generated ⟨hadm, hkm.trans hm, ha⟩ hthere hatt, exec_generated ⟨hadm, hm, ha⟩ hthere hatt,
    generateOutput_length _ m, ?_, rfl, rfl, rfl, rfl, rfl⟩
  rw [generateOutput_take _ hkm]
  rfl

/-- Settles O18: with no byte to make, the run goes from ABSORB to the final hash without a look at the host's ready line;
the reseed comparator is the first of the checks. -/
theorem generateZeroRequest : Obligations.GenerateZeroRequest := by
  intro s a rest hr
  refine ⟨fun ⟨⟨hinst, hrc⟩, hn, ha⟩ hd he => ?_, fun hexhausted => ?_⟩
  · have hpass : precondition (.generate a.length 0) s = none :=
      (generateError_none s.cfg _ _ _ _).mpr ⟨hinst, hrc, hn, ha⟩
    rw [exec_accepts _ s hpass, resumeAbsorb_generate 0 (by simp [hd]), hd, List.take_left,
      startGenerate_zero a (by exact he), commitAndRespond, respond_taken _ _ (by exact hr)]
    exact ⟨_, rfl, rfl, rfl, rfl, (List.append_assoc _ _ _).symm, rfl⟩
  · have hreject : precondition (.generate a.length 0) s = some .reseedRequired :=
      (generateError_iff s.cfg _ _ _ _ _).mpr (.inl ⟨rfl, hexhausted⟩)
    rw [exec_rejects _ s _ hreject, raise, respond_taken _ s hr]
    rfl

/-- Settles O32: by the ways GENERATE can end. -/
theorem generateFrame : Obligations.GenerateFrame := by
  intro addLen n s t ht
  rw [exec_eq, Host.Outcome.next.injEq] at ht
  subst ht
  have ⟨hcfg, hcmdIn, hrst, houtReady, hrspReady, hengineAnswers⟩ := execState_sameLines (.generate addLen n) s
  rcases execState_generate addLen n s with ⟨e, h⟩ | h
  · rw [h]
    simp [raise]
  · obtain ⟨hC, hINST, hdataIn⟩ := h.unchanged
    obtain ⟨hdataOut, hhashPort⟩ := h.transfers
    exact ⟨hC, hINST, hcfg, hcmdIn, hrst, houtReady, hrspReady, hengineAnswers, .inr hdataIn, hdataOut, hhashPort,
      h.registers⟩

/-- Settles O43: control state by control state, a transition leaves the outcome the same, and so does a wait. -/
theorem outcomeIndependentOfPacing : Obligations.OutcomeIndependentOfPacing := by
  intro s hr hp
  rw [tick_of_rst_low hr, outcomeOf_tickFrom hp rfl hr, outcomeOf_waiting hp rfl hr]

end Sys2Proof.Machine
end

section
/-! SUPPORT. Which response a command delivers (R56, R57): an accepted one `OK` or, while it waits, none; a rejected one
the code of the check that failed (R112), which names the error. -/

namespace Sys2Proof.Machine

/-! ### The codes -/

/-- R57, R107 to R111: the codes of `OK` and of the five errors differ. -/
theorem Status.code_injective : Function.Injective Status.code := by
  rintro (_ | e) (_ | e')
  · decide
  · cases e' <;> decide
  · cases e <;> decide
  · cases e <;> cases e' <;> decide

/-- R57: a delivered code says which response was delivered. -/
theorem deliversCode_iff (st : Status) (s t : State) :
    DeliversCode st.code s t ↔ t.responses = s.responses ++ [st] := by
  rw [DeliversCode, ← List.map_singleton, ← List.map_append]
  exact Status.code_injective.list_map.eq_iff

/-! ### Accepted commands -/

/-- R46, R56: between `s` and `t` the response `OK` was delivered, or none. -/
def DeliversOkOrNone (s t : State) : Prop := t.responses = s.responses ∨ t.responses = s.responses ++ [.ok]

/-- R112: in either case, no error. -/
theorem DeliversOkOrNone.not_error {s t : State} (h : DeliversOkOrNone s t) (e : DrbgError) :
    t.responses ≠ s.responses ++ [.error e] := by
  rcases h with h | h <;> simp [h]

theorem commitAndRespond_deliversOkOrNone (w : Writes) (s : State) : DeliversOkOrNone s (commitAndRespond w s) := by
  rcases commitAndRespond_cases w s with ⟨-, h⟩ | ⟨-, h⟩ <;> rw [h]
  · exact .inr rfl
  · exact .inl (commit_responses w s)

theorem GenerateEnd.deliversOkOrNone {vw : SeedVal} {s t : State} (h : GenerateEnd vw s t) : DeliversOkOrNone s t := by
  cases h with
  | waiting ms bs p => exact .inl rfl
  | committed ms bs hms => exact commitAndRespond_deliversOkOrNone _ (outBytes bs (s.hashed ms))

theorem fromDeriveV_deliversOkOrNone (M : List Byte) (s : State) :
    DeliversOkOrNone s (fromDeriveV (DfRun.start M) s) := by
  cases he : s.engineAnswers with
  | false =>
    rw [fromDeriveV_waits M s he]
    exact .inl rfl
  | true =>
    rw [fromDeriveV_start M s he]
    exact commitAndRespond_deliversOkOrNone _ (s.hashed _)

theorem fromGenW_deliversOkOrNone {add : List Byte} (hadd : add ≠ []) (n : Nat) (s : State) :
    DeliversOkOrNone s (fromGenW add n s) := by
  have hstart : startGenerate add n s = fromGenW add n s := by simp [startGenerate, hadd]
  exact hstart ▸ (startGenerate_end add n s).deliversOkOrNone

/-- R46, R56: past its checks a command reports no error: it waits, or it commits and responds `OK`. -/
theorem resumeAbsorb_deliversOkOrNone (i : Instr) (s : State) : DeliversOkOrNone s (resumeAbsorb i [] s) := by
  by_cases hthere : payloadLen i ≤ s.dataIn.length
  · rw [resumeAbsorb_enough i [] s hthere]
    rcases afterAbsorb_cases i ([] ++ s.dataIn.take (payloadLen i - [].length)) s with
      ⟨M, hp⟩ | ⟨add, n, hadd, hp⟩ | ⟨n, hp⟩ <;> rw [hp]
    · exact fromDeriveV_deliversOkOrNone M (inBytes (payloadLen i) s).2
    · exact fromGenW_deliversOkOrNone hadd n (inBytes (payloadLen i) s).2
    · exact (fromGenOut_end s.V s.V [] n (inBytes (payloadLen i) s).2).deliversOkOrNone
  · rw [resumeAbsorb_waits i [] s (Nat.not_le.mp hthere)]
    exact .inl rfl

/-! ### Rejected commands -/

/-- R112: a rejection whose response the host takes. -/
theorem raise_taken (e : DrbgError) {s : State} (hr : s.rspReady = true) : raise e s = rejected e s :=
  respond_taken (.error e) s hr

theorem exec_rejected {i : Instr} {s : State} {e : DrbgError} (hr : s.rspReady = true)
    (h : precondition i s = some e) : exec i s = .next (rejected e s) := by
  rw [exec_rejects i s e h, raise_taken e hr]

/-- R54, R111: an illegal descriptor is rejected when it is accepted, before any other check. -/
theorem step_rejects_illegal {s : State} {d : Descriptor} {rest : List Descriptor} {why : Illegal}
    (hp : s.phase = .idle) (hlow : s.rst = false) (hc : s.cmdIn = d :: rest) (hd : decode d = .illegal why) :
    step s = .next (raise .illegalCommand { s with cmdIn := rest }) := by
  rw [step_accepts hp hlow hc, descriptorState, hd]

/-- R88, R110: when the input-length check is the one that fails. -/
theorem precondition_oversizedInput_iff (i : Instr) (s : State) :
    precondition i s = some .oversizedInput ↔
      (∃ entLen nonceLen persLen, i = .instantiate entLen nonceLen persLen ∧ 16 ≤ entLen ∧
        (s.cfg.maxInputBytes.toNat < entLen ∨ s.cfg.maxInputBytes.toNat < nonceLen ∨
          s.cfg.maxInputBytes.toNat < persLen)) ∨
      (∃ entLen addLen, i = .reseed entLen addLen ∧ 16 ≤ entLen ∧
        (s.cfg.maxInputBytes.toNat < entLen ∨ s.cfg.maxInputBytes.toNat < addLen)) ∨
      (∃ addLen n, i = .generate addLen n ∧ s.INST = true ∧ s.RC.toNat ≤ s.cfg.reseedInterval.toNat ∧
        n ≤ 65536 ∧ s.cfg.maxInputBytes.toNat < addLen) := by
  cases i with
  | instantiate e n p => simp [precondition, instantiateError_iff]
  | reseed e a => simp [precondition, reseedError_iff]
  | generate a n => simp [precondition, generateError_iff]

/-- R106, R112: with the host taking responses, an error's code is delivered exactly when the checks end in that error. -/
theorem exec_deliversError_iff {i : Instr} {s t : State} (hr : s.rspReady = true) (ht : exec i s = .next t)
    (e : DrbgError) : DeliversCode e.code s t ↔ precondition i s = some e := by
  refine (deliversCode_iff (.error e) s t).trans ?_
  cases hpre : precondition i s with
  | some e' =>
    rw [exec_rejected hr hpre, Host.Outcome.next.injEq] at ht
    simp [← ht, rejected]
  | none =>
    rw [exec_accepts i s hpre, Host.Outcome.next.injEq] at ht
    have hnone := (ht ▸ resumeAbsorb_deliversOkOrNone i s : DeliversOkOrNone s t).not_error e
    simp [hnone]

end Sys2Proof.Machine
end

section
/-! SUPPORT. The statements of the family of 60_exceptions.md, settled: the order of the checks, when each error is
reported, what a rejection changes, what the events of the host leave alone. -/

namespace Sys2Proof.Machine

/-! ### Rejections -/

/-- Settles O20: a failed check, and an illegal descriptor, lead to `raise`, which is the response alone, taken or
waiting. -/
theorem rejectionChangesNothing : Obligations.RejectionChangesNothing := by
  refine ⟨fun i s e hpre => ?_, fun s d rest why hp hlow hc hd => ?_⟩
  · rw [exec_rejects i s e hpre]
    exact ⟨fun hr => congrArg _ (respond_taken _ s hr), fun hr => congrArg _ (respond_waits _ s hr)⟩
  · rw [step_rejects_illegal hp hlow hc hd]
    exact ⟨fun hr => congrArg _ (respond_taken _ { s with cmdIn := rest } hr),
      fun hr => congrArg _ (respond_waits _ { s with cmdIn := rest } hr)⟩

/-- Settles O21: in each case the command's check gives the error named, the earlier ones being passed. -/
theorem errorPriority : Obligations.ErrorPriority := by
  intro s hr
  refine ⟨fun d rest why hp hlow hc hd => ?_, fun e n p => ⟨fun hshort => ?_, fun hlong hover => ?_⟩,
    fun e a => ⟨fun hshort => ?_, fun hlong hover => ?_⟩,
    fun a n => ⟨fun hexhausted => ?_, fun hinst hrc hn => ?_, fun hinst hrc hn ha => ?_⟩⟩
  · rw [step_rejects_illegal hp hlow hc hd, raise_taken _ (by exact hr)]
  · exact exec_rejected hr ((instantiateError_iff s.cfg e n p _).mpr (.inl ⟨rfl, hshort⟩))
  · exact exec_rejected hr ((instantiateError_iff s.cfg e n p _).mpr (.inr ⟨rfl, hlong, hover⟩))
  · exact exec_rejected hr ((reseedError_iff s.cfg e a _).mpr (.inl ⟨rfl, hshort⟩))
  · exact exec_rejected hr ((reseedError_iff s.cfg e a _).mpr (.inr ⟨rfl, hlong, hover⟩))
  · exact exec_rejected hr ((generateError_iff s.cfg _ _ a n _).mpr (.inl ⟨rfl, hexhausted⟩))
  · exact exec_rejected hr ((generateError_iff s.cfg _ _ a n _).mpr (.inr (.inl ⟨rfl, hinst, hrc, hn⟩)))
  · exact exec_rejected hr ((generateError_iff s.cfg _ _ a n _).mpr (.inr (.inr ⟨rfl, hinst, hrc, hn, ha⟩)))

/-! ### When each error is reported -/

/-- Settles O22: the code delivered names the error in which the checks end; those of INSTANTIATE and RESEED have this
one. -/
theorem insufficientEntropyExactly : Obligations.InsufficientEntropyExactly := by
  intro i s t hr ht
  refine (exec_deliversError_iff hr ht .insufficientEntropy).trans ?_
  cases i with
  | instantiate e n p => simp [precondition, instantiateError_iff]
  | reseed e a => simp [precondition, reseedError_iff]
  | generate a n => simp [precondition, generateError_iff]

/-- Settles O23: as O22; only the checks of GENERATE have this error, after the reseed check. -/
theorem requestTooLargeExactly : Obligations.RequestTooLargeExactly := by
  intro i s t hr ht
  refine (exec_deliversError_iff hr ht .requestTooLarge).trans ?_
  cases i with
  | instantiate e n p => simp [precondition, instantiateError_iff]
  | reseed e a => simp [precondition, reseedError_iff]
  | generate a n => simp [precondition, generateError_iff, and_comm (a := 65536 < n), and_assoc]

/-- Settles O24: as O22; only the checks of GENERATE have this error, before any other. -/
theorem reseedRequiredExactly : Obligations.ReseedRequiredExactly := by
  intro i s t hr ht
  refine (exec_deliversError_iff hr ht .reseedRequired).trans ?_
  cases i with
  | instantiate e n p => simp [precondition, instantiateError_iff]
  | reseed e a => simp [precondition, reseedError_iff]
  | generate a n => simp [precondition, generateError_iff, or_comm]

/-- Settles O25: as O22; the checks of every command have this error, after the others. At the default the limit is the
greatest 32-bit number, which no count of a well-formed command is above. -/
theorem oversizedInputExactly : Obligations.OversizedInputExactly := by
  intro i s t hr ht
  have hiff := (exec_deliversError_iff hr ht .oversizedInput).trans (precondition_oversizedInput_iff i s)
  refine ⟨hiff, fun hwf hdefault hdel => ?_⟩
  have hmax : s.cfg.maxInputBytes.toNat = 2 ^ 32 - 1 := congrArg BitVec.toNat hdefault
  rcases hiff.mp hdel with ⟨e, n, p, rfl, -, hover⟩ | ⟨e, a, rfl, -, hover⟩ | ⟨a, n, rfl, -, -, -, hover⟩
  · have hcounts := (instantiate_wf e n p).mp hwf
    omega
  · have hcounts := (reseed_wf e a).mp hwf
    omega
  · have hcounts := (generate_wf a n).mp hwf
    omega

/-! ### The events of the host -/

/-- Settles O47: no clause of the invariant reads what an event of the host or of the engine writes. -/
theorem hostEventsKeepInvariant : Obligations.HostEventsKeepInvariant := fun e _ => inv_hostEvent e

/-- Settles O34: each event writes one input channel or one input line, and nothing else. -/
theorem hostEventsFrame : Obligations.HostEventsFrame := by
  intro e s
  cases e <;> exact ⟨rfl, rfl, rfl, rfl, rfl, rfl, rfl, rfl, rfl, rfl⟩

end Sys2Proof.Machine
end

section
/-! SUPPORT. What the engine held is never read (R65, R126): from a state whose engine is taken to be fresh, every
operation leads where it leads from the state itself, but for the engine. -/

namespace Sys2Proof.Machine

/-- R66: the same state with a freshly initialised engine. -/
def State.freshEngine (s : State) : State := { s with engine := .fresh }

/-- Two states that differ in the engine only, as the engine of either put into the other. -/
theorem eq_of_freshEngine_eq {s t : State} (h : s.freshEngine = t.freshEngine) : s = { t with engine := s.engine } :=
  congrArg (fun u : State => { u with engine := s.engine }) h

/-- R127: with no descriptor presented nothing is accepted. -/
theorem acceptState_nil {s : State} (h : s.cmdIn = []) : acceptState s = s := by
  simp [acceptState, h]

section
variable (s : State)

@[simp] theorem freshEngine_V : s.freshEngine.V = s.V := rfl
@[simp] theorem freshEngine_C : s.freshEngine.C = s.C := rfl
@[simp] theorem freshEngine_RC : s.freshEngine.RC = s.RC := rfl
@[simp] theorem freshEngine_dataIn : s.freshEngine.dataIn = s.dataIn := rfl
@[simp] theorem freshEngine_outReady : s.freshEngine.outReady = s.outReady := rfl
@[simp] theorem freshEngine_engineAnswers : s.freshEngine.engineAnswers = s.engineAnswers := rfl

/-! ### The shared operations -/

@[simp] theorem goto_freshEngine (p : Phase) : s.freshEngine.goto p = (s.goto p).freshEngine := rfl

@[simp] theorem outBytes_freshEngine (bs : List Byte) :
    outBytes bs s.freshEngine = (outBytes bs s).freshEngine := rfl

/-- R66: a request leaves the engine fresh, and no request leaves it as it was. -/
@[simp] theorem hashed_freshEngine (ms : List (List Byte)) :
    s.freshEngine.hashed ms = (s.hashed ms).freshEngine := by
  simp [State.hashed, State.freshEngine]

@[simp] theorem respond_freshEngine (st : Status) : respond st s.freshEngine = (respond st s).freshEngine := by
  rw [respond, respond, apply_ite State.freshEngine]
  rfl

@[simp] theorem commitAndRespond_freshEngine (w : Writes) :
    commitAndRespond w s.freshEngine = (commitAndRespond w s).freshEngine := by
  have hcommit : commit w s.freshEngine = (commit w s).freshEngine := by cases w <;> rfl
  rw [commitAndRespond, hcommit, respond_freshEngine, commitAndRespond]

/-! ### The control states -/

@[simp] theorem fromDeriveC_freshEngine (newV : SeedVal) (df : DfRun) :
    fromDeriveC newV df s.freshEngine = (fromDeriveC newV df s).freshEngine := by
  simp [fromDeriveC, dfRequests_state, dfRequests_fst _ df s.freshEngine s, apply_ite State.freshEngine]

@[simp] theorem fromDeriveV_freshEngine (df : DfRun) :
    fromDeriveV df s.freshEngine = (fromDeriveV df s).freshEngine := by
  simp [fromDeriveV, dfRequests_state, dfRequests_fst _ df s.freshEngine s, apply_ite State.freshEngine]

@[simp] theorem fromGenH_freshEngine (vw : SeedVal) : fromGenH vw s.freshEngine = (fromGenH vw s).freshEngine := by
  simp [fromGenH, hashRequest_hashed, apply_ite State.freshEngine]

@[simp] theorem outputLoop_freshEngine (turns : Nat) (temp : SeedVal) (left : Nat) :
    outputLoop turns temp left s.freshEngine = (outputLoop turns temp left s).freshEngine := by
  rw [outputLoop_eq, outputLoop_eq, hashed_freshEngine]
  rfl

@[simp] theorem fromGenOut_freshEngine (vw temp : SeedVal) (pending : List Byte) (left : Nat) :
    fromGenOut vw temp pending left s.freshEngine = (fromGenOut vw temp pending left s).freshEngine := by
  simp [fromGenOut, outputBlock_eq, apply_ite State.freshEngine]

@[simp] theorem fromGenW_freshEngine (add : List Byte) (n : Nat) :
    fromGenW add n s.freshEngine = (fromGenW add n s).freshEngine := by
  simp [fromGenW, hashRequest_hashed, apply_ite State.freshEngine]

/-! ### The commands and the step -/

/-- R27: ABSORB takes bytes and goes on in one of three control states, none of which reads the engine. -/
theorem resumeAbsorb_freshEngine (i : Instr) (got : List Byte) :
    resumeAbsorb i got s.freshEngine = (resumeAbsorb i got s).freshEngine := by
  by_cases h : payloadLen i - got.length ≤ s.dataIn.length
  · have hafter (payload : List Byte) : afterAbsorb i payload s.freshEngine = afterAbsorb i payload s := by
      cases i <;> rfl
    rw [resumeAbsorb_enough i got s h, resumeAbsorb_enough i got s.freshEngine h, hafter]
    rcases afterAbsorb_cases i (got ++ s.dataIn.take (payloadLen i - got.length)) s with
      ⟨M, hp⟩ | ⟨add, n, -, hp⟩ | ⟨n, hp⟩ <;> rw [freshEngine_dataIn, hp]
    · exact fromDeriveV_freshEngine (inBytes _ s).2 _
    · exact fromGenW_freshEngine (inBytes _ s).2 _ _
    · exact fromGenOut_freshEngine (inBytes _ s).2 _ _ _ _
  · rw [resumeAbsorb_waits i got s (Nat.not_le.mp h), resumeAbsorb_waits i got s.freshEngine (Nat.not_le.mp h)]
    rfl

theorem execState_freshEngine (i : Instr) : execState i s.freshEngine = (execState i s).freshEngine := by
  unfold execState
  rw [precondition_congr i s.freshEngine s rfl rfl rfl]
  cases precondition i s with
  | some e => exact respond_freshEngine s _
  | none => exact resumeAbsorb_freshEngine s i []

theorem descriptorState_freshEngine (d : Descriptor) :
    descriptorState d s.freshEngine = (descriptorState d s).freshEngine := by
  unfold descriptorState
  cases decode d with
  | command i => exact execState_freshEngine s i
  | illegal why => exact respond_freshEngine s _

theorem acceptState_freshEngine : acceptState s.freshEngine = (acceptState s).freshEngine := by
  cases h : s.cmdIn with
  | nil => rw [acceptState_nil h, acceptState_nil (s := s.freshEngine) h]
  | cons d rest =>
    rw [acceptState_cons h, acceptState_cons (s := s.freshEngine) h]
    exact descriptorState_freshEngine { s with cmdIn := rest } d

theorem proceedFrom_freshEngine (p : Phase) : proceedFrom p s.freshEngine = (proceedFrom p s).freshEngine := by
  cases p with
  | idle => exact acceptState_freshEngine s
  | check d => exact descriptorState_freshEngine s d
  | absorb i got => exact resumeAbsorb_freshEngine s i got
  | deriveV df => exact fromDeriveV_freshEngine s df
  | deriveC newV df => exact fromDeriveC_freshEngine s newV df
  | genW add n => exact fromGenW_freshEngine s add n
  | genOut vw temp pending left => exact fromGenOut_freshEngine s vw temp pending left
  | genH vw => exact fromGenH_freshEngine s vw
  | commit w => exact commitAndRespond_freshEngine s w
  | respond st => exact respond_freshEngine s st

theorem advance_freshEngine : advance s.freshEngine = (advance s).freshEngine := by
  rw [advance_eq, advance_eq, apply_ite State.freshEngine, ← proceedFrom_freshEngine]
  rfl

end

end Sys2Proof.Machine
end

section
/-! SUPPORT. Waits for the host: in ABSORB for more payload (R132), in GEN_OUT for a byte to be taken (R133). The host's
side: the reset pulse (R61), a line issued (R117), `CONSTRUCT` (R130). What a transition leaves of the build
parameters (R129). -/

namespace Sys2Proof.Machine

/-- R116: with reset low a step goes on from the control state the sequencer stands in. -/
theorem step_of_rst_low {s : State} (h : s.rst = false) : step s = .next (proceedFrom s.phase s) := by
  rw [step_eq, if_neg (by simp [h])]

/-! ### ABSORB -/

/-- R46, R98: the checks read the descriptor's counts and the registers, not the payload. -/
theorem precondition_of_dataIn (i : Instr) (s : State) (bs : List Byte) :
    precondition i { s with dataIn := bs } = precondition i s := precondition_congr i _ s rfl rfl rfl

/-- R132: an accepted command with too little payload takes what is there and waits. -/
theorem exec_shortfall {i : Instr} {s : State} (hpass : precondition i s = none)
    (hshort : s.dataIn.length < payloadLen i) :
    exec i s = .next { s with dataIn := [], phase := .absorb i s.dataIn } := by
  rw [exec_accepts i s hpass, resumeAbsorb_waits i [] s hshort, List.nil_append]

/-- R116, R132: the wait for payload bytes stays as it is while data-in is empty. -/
theorem absorb_stays {i : Instr} {got : List Byte} {s : State} (hp : s.phase = .absorb i got)
    (hshort : got.length < payloadLen i) (hempty : s.dataIn = []) (hr : s.rst = false) :
    step s = .next s ∧ tick s = s := by
  have hsame : { s with dataIn := [], phase := .absorb i got } = s := by rw [← hempty, ← hp]
  have hwait : resumeAbsorb i got s = s := by
    rw [resumeAbsorb_waits i got s (by simp [hempty]; omega), hempty, List.append_nil, hsame]
  constructor
  · rw [step_of_rst_low hr, hp]
    exact congrArg _ hwait
  · rw [tick_of_rst_low hr, hp, tickFrom, tickAbsorb, if_neg (Nat.not_le.mpr hshort), if_pos (by simp [hempty])]

/-- R41, R132: a step from the wait for payload bytes, more having come, is the command with all of them there. -/
theorem step_absorb_more {i : Instr} {s : State} {first : List Byte} (more : List Byte)
    (hpass : precondition i s = none) (hr : s.rst = false) (hshort : first.length < payloadLen i) :
    step { s with dataIn := more, phase := .absorb i first } = exec i { s with dataIn := first ++ more } := by
  have hall := resumeAbsorb_inBytes i first.length [] (s := { s with dataIn := first ++ more }) hshort.le (by simp)
  simp only [inBytes, List.take_left, List.drop_left, List.nil_append] at hall
  have hstep := step_of_rst_low (s := { s with dataIn := more, phase := .absorb i first }) hr
  rw [exec_accepts i _ ((precondition_of_dataIn i s _).trans hpass), ← hall, hstep]
  exact congrArg _ (resumeAbsorb_of_goto i first { s with dataIn := more } (.absorb i first))

/-! ### GEN_OUT -/

/-- R42: on data-out stands the first byte not yet taken. -/
theorem dataOutValid_genOut {s : State} {vw temp : SeedVal} {pending : List Byte} {left : Nat}
    (hp : s.phase = .genOut vw temp pending left) : s.dataOutValid = pending.head? := by
  cases pending <;> simp [State.dataOutValid, hp]

/-- R101, R133: GEN_OUT makes a block and waits for the host to take its first byte. -/
theorem fromGenOut_untaken (vw temp : SeedVal) {left : Nat} {s : State} (hleft : left ≠ 0)
    (he : s.engineAnswers = true) (ho : s.outReady = false) :
    fromGenOut vw temp [] left s = (s.hashed [seedBytes temp]).goto
      (.genOut vw (inc temp) ((digestBytes (SHA256 (seedBytes temp))).take (min left DIGEST)) (left - DIGEST)) := by
  simp [fromGenOut, outBytes_nil, outputBlock_eq, hleft, he, ho]

/-- R116, R133: the wait for the host to take a byte stays as it is. -/
theorem genOut_stays {s : State} {vw temp : SeedVal} {pending : List Byte} {left : Nat}
    (hp : s.phase = .genOut vw temp pending left) (hpending : pending ≠ []) (ho : s.outReady = false)
    (hr : s.rst = false) : step s = .next s := by
  have hwait : fromGenOut vw temp pending left s = s.goto s.phase := by simp [fromGenOut, hpending, ho, hp]
  rw [step_of_rst_low hr, hp, proceedFrom, hwait]
  rfl

/-! ### The host -/

/-- R61: the reset pulse. -/
theorem pseudoReset_eq (s : State) : pseudoReset s = resetAnd [] s := by
  have hedge : advance ((HostEvent.rst true).apply s) = ((HostEvent.rst true).apply s).applyReset := by
    rw [advance_eq]
    rfl
  rw [pseudoReset, hedge, resetAnd, List.append_nil]
  rfl

/-- R45, R117: the host presents a command to a core that waits for one. -/
theorem advance_present {i : Instr} {s : State} (hwf : i.WellFormed) (hp : s.phase = .idle) (hr : s.rst = false)
    (hc : s.cmdIn = []) : advance ((HostEvent.present (encode i)).apply s) = execState i s := by
  have hcmd : ((HostEvent.present (encode i)).apply s).cmdIn = [encode i] := congrArg (· ++ [encode i]) hc
  have htaken : { (HostEvent.present (encode i)).apply s with cmdIn := [] } = s := by
    rw [← hc]
    rfl
  have hstep := step_accepts (s := (HostEvent.present (encode i)).apply s) hp hr hcmd
  rw [htaken, descriptorState, decodeEncodeRoundTrip i hwf, step_eq_advance, Host.Outcome.next.injEq] at hstep
  exact hstep

/-- R112, R117: the host issues a line whose command is rejected; the response is taken, and no payload is sent. -/
theorem issue_rejected {l : AsmLine} {s : State} {e : DrbgError} (hwf : l.instr.WellFormed) (hp : s.phase = .idle)
    (hr : s.rst = false) (hc : s.cmdIn = []) (hrsp : s.rspReady = true) (hfails : precondition l.instr s = some e) :
    issue l s = rejected e s := by
  have hpresent : advance ((HostEvent.present l.descriptor).apply s) = rejected e s := by
    rw [AsmLine.descriptor, advance_present hwf hp hr hc, execState, hfails]
    exact raise_taken e hrsp
  rw [issue, issueDescriptor, hpresent]
  exact if_neg (by simp [rejected, Phase.fsm])

/-- R55, R117: the host issues a line whose command is accepted; the payload is sent once the command waits for it. -/
theorem issue_accepted {l : AsmLine} {s t : State} (hwf : l.instr.WellFormed) (hp : s.phase = .idle)
    (hr : s.rst = false) (hc : s.cmdIn = []) (hd : s.dataIn = []) (hneed : 0 < payloadLen l.instr)
    (hpass : precondition l.instr s = none) (ht : exec l.instr { s with dataIn := l.payload } = .next t) :
    issue l s = t := by
  have hpresent : advance ((HostEvent.present l.descriptor).apply s) = { s with phase := .absorb l.instr [] } := by
    have hwait := exec_shortfall hpass (by simpa [hd] using hneed)
    rw [exec_eq, Host.Outcome.next.injEq] at hwait
    rw [AsmLine.descriptor, advance_present hwf hp hr hc, hwait, hd, ← hd]
  have hmore := step_absorb_more (first := []) l.payload hpass hr hneed
  rw [List.nil_append, ht, step_eq_advance, Host.Outcome.next.injEq] at hmore
  rw [issue, issueDescriptor, hpresent]
  simp [Phase.fsm, HostEvent.apply, hd, hmore]

/-- R130: with entropy, `CONSTRUCT` is the reset pulse and INSTANTIATE. -/
theorem construct_issue {e : List Byte} (no p : List Byte) (s : State) (h : 0 < e.length) :
    construct e no p s = issue (.instantiate e no p) (resetAnd [] s) := by
  rw [construct, pseudoReset_eq, if_pos h]

/-- R112, R130: `CONSTRUCT` with inputs that INSTANTIATE rejects. -/
theorem construct_rejected {e no p : List Byte} {s : State} {err : DrbgError} (hrsp : s.rspReady = true)
    (hc : s.cmdIn = []) (hpos : 0 < e.length)
    (hlen : e.length < 2 ^ 32 ∧ no.length < 2 ^ 32 ∧ p.length < 2 ^ 32)
    (hfails : instantiateError s.cfg e.length no.length p.length = some err) :
    construct e no p s = resetAnd [.error err] s := by
  have hwf : (Instr.instantiate e.length no.length p.length).WellFormed := (instantiate_wf _ _ _).mpr hlen
  have hissue := issue_rejected (l := .instantiate e no p) (s := resetAnd [] s) hwf rfl rfl hc hrsp hfails
  rw [construct_issue no p s hpos, hissue]
  simp [rejected, resetAnd]

/-- R89, R130: `CONSTRUCT` with inputs that INSTANTIATE accepts; the limit of the build is a 32-bit number, so the counts
fit the descriptor. -/
theorem construct_accepted {e no p : List Byte} {s : State} (hatt : Attended s) (hc : s.cmdIn = [])
    (hd : s.dataIn = []) (hacc : InstantiateAccepted s e.length no.length p.length) :
    construct e no p s = seeded (e ++ no ++ p) [] { s with rst := false } := by
  obtain ⟨heng, -, hrsp⟩ := hatt
  have ⟨(hlong : 16 ≤ e.length), he, hno, hp⟩ := hacc
  have hmax := s.cfg.maxInputBytes.isLt
  have hwf : (Instr.instantiate e.length no.length p.length).WellFormed :=
    (instantiate_wf _ _ _).mpr ⟨by omega, by omega, by omega⟩
  have hneed : 0 < payloadLen (.instantiate e.length no.length p.length) := by rw [payloadLen]; omega
  have hpass : precondition (.instantiate e.length no.length p.length) (resetAnd [] s) = none :=
    (instantiateError_none s.cfg _ _ _).mpr hacc
  have hrun := (instantiateResult { resetAnd [] s with dataIn := e ++ no ++ p } e no p [] hacc
    (List.append_nil _).symm heng hrsp).1
  have hissue := issue_accepted (l := .instantiate e no p) (s := resetAnd [] s) hwf rfl rfl hc hd hneed hpass hrun
  rw [construct_issue no p s (by omega), hissue]
  simp [seeded, resetAnd]

/-! ### The build parameters -/

/-- R129: a transition writes no build parameter, not in COMMIT and not at reset. -/
theorem tick_cfg (s : State) : (tick s).cfg = s.cfg := by
  cases h : s.rst with
  | true => rw [tick_of_rst_high h, applyReset_cfg]
  | false =>
    obtain ⟨w, -, ht⟩ | ⟨-, hk⟩ := tick_cases h
    · rw [ht, goto_cfg, (commit_sameLines w s).cfg]
    · exact hk.cfg

end Sys2Proof.Machine
end

section
/-! SUPPORT. The statements of the family of 70_reset_and_hazards.md, settled: reset, the waits, what no
command changes, the host that constructs a core. -/

namespace Sys2Proof.Machine

/-! ### Reset, and nothing to do -/

/-- Settles O6: in IDLE the step and the transition look at the command channel, and it is empty. -/
theorem stepWaitsWithoutCommand : Obligations.StepWaitsWithoutCommand := by
  intro s hp hr hc
  constructor
  · rw [step_of_rst_low hr, hp, proceedFrom, acceptState_nil hc]
  · rw [tick_of_rst_low hr, hp, tickFrom, tickIdle, hc]

/-- Settles O9: with reset asserted the step and the transition are the reset, whatever the control state. -/
theorem resetEdgeAbandonsCommand : Obligations.ResetEdgeAbandonsCommand := by
  intro s hr
  refine ⟨?_, tick_of_rst_high hr⟩
  rw [step_eq, if_pos hr, State.applyReset]

/-! ### The waits -/

/-- Settles O26: ABSORB takes the bytes there are and waits for the others. -/
theorem payloadShortfallWaits : Obligations.PayloadShortfallWaits :=
  fun _ _ hpass hshort => ⟨_, exec_shortfall hpass hshort, rfl, fun hr => absorb_stays rfl hshort rfl hr⟩

/-- Settles O27: the wait holds the first part, and ABSORB goes on with it as with a payload that came at once. -/
theorem shortfallThenMoreBytes : Obligations.ShortfallThenMoreBytes := by
  intro i s first more hpass hr hshort
  have hmore := step_absorb_more more hpass hr hshort
  exact ⟨_, exec_shortfall ((precondition_of_dataIn i s first).trans hpass) hshort, hmore⟩

/-- Settles O28: the run ends in GEN_OUT with the first block made and none of it taken. -/
theorem outputBackPressureWaits : Obligations.OutputBackPressureWaits := by
  intro s addLen n ⟨⟨hinst, hrc⟩, hn, ha⟩ hpos hthere he ho
  have hpass : precondition (.generate addLen n) s = none :=
    (generateError_none s.cfg _ _ _ _).mpr ⟨hinst, hrc, hn, ha⟩
  have hblock (d : Digest) : ((digestBytes d).take (min n DIGEST)).head? = (digestBytes d).head? := by
    simp [List.head?_take, DIGEST, hpos.ne']
  have hexec := exec_accepts (.generate addLen n) s hpass
  rw [resumeAbsorb_generate n hthere, startGenerate_answered _ n (by exact he),
    fromGenOut_untaken _ _ hpos.ne' (by exact he) (by exact ho)] at hexec
  refine ⟨_, hexec, rfl, rfl, rfl, rfl, rfl, rfl, ?_, fun hr => genOut_stays rfl ?_ ho hr⟩
  · rw [dataOutValid_genOut rfl, hblock]
    rfl
  · rw [← List.length_pos_iff, List.length_take, digestBytes_length]
    simp [DIGEST, hpos]

/-! ### What does not change, and what does not matter -/

/-- Settles O33: a step is a run of transitions, and neither they nor the events of the host write `cfg`. -/
theorem buildParametersFixed : Obligations.BuildParametersFixed := by
  refine ⟨fun s t hstep => ?_, tick_cfg, fun e s => ?_⟩
  · exact (leads_of_step hstep).induct (P := fun u => u.cfg = s.cfg) (fun u hu => (tick_cfg u).trans hu) rfl
  · cases e <;> rfl

/-- Settles O49: with the engine taken to be fresh the two states are the same, and so are those the step leads to. -/
theorem engineResidueIrrelevant : Obligations.EngineResidueIrrelevant := by
  intro s t e hstep
  rw [step_eq_advance, Host.Outcome.next.injEq] at hstep
  have hfresh : (advance { s with engine := e }).freshEngine = t.freshEngine := by
    rw [← hstep, ← advance_freshEngine, ← advance_freshEngine]
    rfl
  exact ⟨_, (step_eq_advance _).trans (congrArg _ (eq_of_freshEngine_eq hfresh))⟩

/-! ### The host -/

/-- Settles O60: after the reset pulse the core waits in IDLE, and the INSTANTIATE that the host issues is rejected by its
checks or runs on the payload sent. -/
theorem constructResult : Obligations.ConstructResult := by
  intro s e no p hatt hc hd
  have ⟨_, _, hrsp⟩ := hatt
  refine ⟨?_, fun hpos hshort hno hp => ?_, fun hlong he hno hp hover => ?_, construct_accepted hatt hc hd⟩
  · rintro rfl
    exact pseudoReset_eq s
  · exact construct_rejected hrsp hc hpos ⟨by omega, hno, hp⟩
      ((instantiateError_iff s.cfg _ _ _ _).mpr (.inl ⟨rfl, hshort⟩))
  · exact construct_rejected hrsp hc (by omega) ⟨he, hno, hp⟩
      ((instantiateError_iff s.cfg _ _ _ _).mpr (.inr ⟨rfl, hlong, hover⟩))

end Sys2Proof.Machine
end
